-- ==== Sys2Proof/Word.lean ====
section
/-! DEFINITION. The two widths of the machine: bytes and 16-bit words. -/
namespace Sys2Proof

/-- An 8-bit value: a general register, a byte of memory (10_state.md R20, 20_memory.md R50). -/
abbrev Byte := BitVec 8

/-- A 16-bit value: SP, PC, a register pair, an address (10_state.md R21, R22). -/
abbrev Word := BitVec 16

end Sys2Proof
end

