-- ==== Sys2Proof/Syntax.lean ====
section
/-! DEFINITION. The instructions: one constructor for each row of spec/opcode_table.json (30_encoding.md R86), and the operand kinds their families range over. -/
namespace Sys2Proof

/-- The seven 8-bit registers an r field can name (30_encoding.md R73; r = 6 is the byte at HL, `Loc.atHl`). -/
inductive Reg8 where
  | b | c | d | e | h | l | a
deriving DecidableEq, Repr

/-- The 8-bit operand of an r field (30_encoding.md R73). -/
inductive Loc where
  | reg (r : Reg8)
  | atHl
deriving DecidableEq, Repr

/-- The source operand of the accumulator instructions (42_alu8.md R120). -/
inductive Source where
  | reg (r : Reg8)
  | atHl
  | imm (n : Byte)
deriving DecidableEq, Repr

/-- The pair table `rp` (30_encoding.md R75). -/
inductive Reg16 where
  | bc | de | hl | sp
deriving DecidableEq, Repr

/-- The pair table `rp2` of PUSH and POP (30_encoding.md R75). -/
inductive StackReg where
  | bc | de | hl | af
deriving DecidableEq, Repr

/-- The condition field (30_encoding.md R77). -/
inductive Cond where
  | nz | z | nc | c
deriving DecidableEq, Repr

/-- The operations `alu[y]` (30_encoding.md R76). -/
inductive AluOp where
  | add | adc | sub | sbc | and | xor | or | cp
deriving DecidableEq, Repr

/-- The rotate and shift operations of the 0xCB table (30_encoding.md R78, x = 0). -/
inductive RotOp where
  | rlc | rrc | rl | rr | sla | sra | swap | srl
deriving DecidableEq, Repr

/-- The eleven unassigned base opcodes (30_encoding.md R80). -/
inductive Unassigned where
  | d3 | db | dd | e3 | e4 | eb | ec | ed | f4 | fc | fd
deriving DecidableEq, Repr

/-- One constructor for each row of spec/opcode_table.json, the rows with operand bytes first. An operand byte or word of the row is
the constructor's argument: `n` an unsigned byte, `e` a byte read as two's complement, `nn` a 16-bit word (30_encoding.md
R79). `At` stands for the parentheses of a memory operand. `stop` carries its second byte, which is fetched and
ignored (46_system.md R188); `prefixCb` carries the byte after the prefix (46_system.md R191). -/
inductive Instr where
  -- base table, the rows with operand bytes
  | ldBcNn (nn : Word) | ldBN (n : Byte) | ldAtNnSp (nn : Word) | ldCN (n : Byte) | stop (x : Byte)
  | ldDeNn (nn : Word) | ldDN (n : Byte) | jrE (e : Byte) | ldEN (n : Byte) | jrNzE (e : Byte) | ldHlNn (nn : Word)
  | ldHN (n : Byte) | jrZE (e : Byte) | ldLN (n : Byte) | jrNcE (e : Byte) | ldSpNn (nn : Word) | ldAtHlN (n : Byte)
  | jrCE (e : Byte) | ldAN (n : Byte) | jpNzNn (nn : Word) | jpNn (nn : Word) | callNzNn (nn : Word)
  | addAN (n : Byte) | jpZNn (nn : Word) | prefixCb (op2 : Byte) | callZNn (nn : Word) | callNn (nn : Word)
  | adcAN (n : Byte) | jpNcNn (nn : Word) | callNcNn (nn : Word) | subN (n : Byte) | jpCNn (nn : Word)
  | callCNn (nn : Word) | sbcAN (n : Byte) | ldhAtNA (n : Byte) | andN (n : Byte) | addSpE (e : Byte)
  | ldAtNnA (nn : Word) | xorN (n : Byte) | ldhAAtN (n : Byte) | orN (n : Byte) | ldHlSpPlusE (e : Byte)
  | ldAAtNn (nn : Word) | cpN (n : Byte)
  -- base table, 0x00 to 0x3F, the rows without
  | nop | ldAtBcA | incBc | incB | decB | rlca | addHlBc | ldAAtBc | decBc | incC | decC | rrca | ldAtDeA | incDe
  | incD | decD | rla | addHlDe | ldAAtDe | decDe | incE | decE | rra | ldAtHlIncA | incHl | incH | decH | daa
  | addHlHl | ldAAtHlInc | decHl | incL | decL | cpl | ldAtHlDecA | incSp | incAtHl | decAtHl | scf | addHlSp
  | ldAAtHlDec | decSp | incA | decA | ccf
  -- base table, 0x40 to 0x7F, the rows without
  | ldBB | ldBC | ldBD | ldBE | ldBH | ldBL | ldBAtHl | ldBA | ldCB | ldCC | ldCD | ldCE | ldCH | ldCL | ldCAtHl
  | ldCA | ldDB | ldDC | ldDD | ldDE | ldDH | ldDL | ldDAtHl | ldDA | ldEB | ldEC | ldED | ldEE | ldEH | ldEL
  | ldEAtHl | ldEA | ldHB | ldHC | ldHD | ldHE | ldHH | ldHL | ldHAtHl | ldHA | ldLB | ldLC | ldLD | ldLE | ldLH
  | ldLL | ldLAtHl | ldLA | ldAtHlB | ldAtHlC | ldAtHlD | ldAtHlE | ldAtHlH | ldAtHlL | halt | ldAtHlA | ldAB | ldAC
  | ldAD | ldAE | ldAH | ldAL | ldAAtHl | ldAA
  -- base table, 0x80 to 0xBF, the rows without
  | addAB | addAC | addAD | addAE | addAH | addAL | addAAtHl | addAA | adcAB | adcAC | adcAD | adcAE | adcAH | adcAL
  | adcAAtHl | adcAA | subB | subC | subD | subE | subH | subL | subAtHl | subA | sbcAB | sbcAC | sbcAD | sbcAE
  | sbcAH | sbcAL | sbcAAtHl | sbcAA | andB | andC | andD | andE | andH | andL | andAtHl | andA | xorB | xorC | xorD
  | xorE | xorH | xorL | xorAtHl | xorA | orB | orC | orD | orE | orH | orL | orAtHl | orA | cpB | cpC | cpD | cpE
  | cpH | cpL | cpAtHl | cpA
  -- base table, 0xC0 to 0xFF, the rows without
  | retNz | popBc | pushBc | rst00 | retZ | ret | rst08 | retNc | popDe | unassignedD3 | pushDe | rst10 | retC
  | reti | unassignedDB | unassignedDD | rst18 | popHl | ldhAtCA | unassignedE3 | unassignedE4 | pushHl | rst20
  | jpHl | unassignedEB | unassignedEC | unassignedED | rst28 | popAf | ldhAAtC | di | unassignedF4 | pushAf | rst30
  | ldSpHl | ei | unassignedFC | unassignedFD | rst38
  -- 0xCB table, 0x00 to 0x3F
  | rlcB | rlcC | rlcD | rlcE | rlcH | rlcL | rlcAtHl | rlcA | rrcB | rrcC | rrcD | rrcE | rrcH | rrcL | rrcAtHl
  | rrcA | rlB | rlC | rlD | rlE | rlH | rlL | rlAtHl | rlA | rrB | rrC | rrD | rrE | rrH | rrL | rrAtHl | rrA
  | slaB | slaC | slaD | slaE | slaH | slaL | slaAtHl | slaA | sraB | sraC | sraD | sraE | sraH | sraL | sraAtHl
  | sraA | swapB | swapC | swapD | swapE | swapH | swapL | swapAtHl | swapA | srlB | srlC | srlD | srlE | srlH
  | srlL | srlAtHl | srlA
  -- 0xCB table, 0x40 to 0x7F
  | bit0B | bit0C | bit0D | bit0E | bit0H | bit0L | bit0AtHl | bit0A | bit1B | bit1C | bit1D | bit1E | bit1H | bit1L
  | bit1AtHl | bit1A | bit2B | bit2C | bit2D | bit2E | bit2H | bit2L | bit2AtHl | bit2A | bit3B | bit3C | bit3D
  | bit3E | bit3H | bit3L | bit3AtHl | bit3A | bit4B | bit4C | bit4D | bit4E | bit4H | bit4L | bit4AtHl | bit4A
  | bit5B | bit5C | bit5D | bit5E | bit5H | bit5L | bit5AtHl | bit5A | bit6B | bit6C | bit6D | bit6E | bit6H | bit6L
  | bit6AtHl | bit6A | bit7B | bit7C | bit7D | bit7E | bit7H | bit7L | bit7AtHl | bit7A
  -- 0xCB table, 0x80 to 0xBF
  | res0B | res0C | res0D | res0E | res0H | res0L | res0AtHl | res0A | res1B | res1C | res1D | res1E | res1H | res1L
  | res1AtHl | res1A | res2B | res2C | res2D | res2E | res2H | res2L | res2AtHl | res2A | res3B | res3C | res3D
  | res3E | res3H | res3L | res3AtHl | res3A | res4B | res4C | res4D | res4E | res4H | res4L | res4AtHl | res4A
  | res5B | res5C | res5D | res5E | res5H | res5L | res5AtHl | res5A | res6B | res6C | res6D | res6E | res6H | res6L
  | res6AtHl | res6A | res7B | res7C | res7D | res7E | res7H | res7L | res7AtHl | res7A
  -- 0xCB table, 0xC0 to 0xFF
  | set0B | set0C | set0D | set0E | set0H | set0L | set0AtHl | set0A | set1B | set1C | set1D | set1E | set1H | set1L
  | set1AtHl | set1A | set2B | set2C | set2D | set2E | set2H | set2L | set2AtHl | set2A | set3B | set3C | set3D
  | set3E | set3H | set3L | set3AtHl | set3A | set4B | set4C | set4D | set4E | set4H | set4L | set4AtHl | set4A
  | set5B | set5C | set5D | set5E | set5H | set5L | set5AtHl | set5A | set6B | set6C | set6D | set6E | set6H | set6L
  | set6AtHl | set6A | set7B | set7C | set7D | set7E | set7H | set7L | set7AtHl | set7A
deriving DecidableEq, Repr

end Sys2Proof
end

