-- ==== Sys2Proof/WellFormed.lean ====
section
/-! DEFINITION. Which instruction terms stand for an instruction of the machine's byte stream. -/
namespace Sys2Proof

/-- Every operand is typed by its field's width, so every term is well formed but the bare 0xCB prefix: the prefix
and its second byte are ONE instruction (46_system.md R191), and its words are read as the row of the second byte
(30_encoding.md R78). -/
def Instr.wellFormed : Instr → Bool
  | .prefixCb _ => false
  | _ => true

end Sys2Proof
end

