-- ==== Sys2Proof/Decode.lean ====
section
/-! DEFINITION. The decoder: bytes to instructions, from the field layout and the tables of 30_encoding.md; and after it the encoder, from the `match` column of spec/opcode_table.json. -/
namespace Sys2Proof

/-! ## Families: the constructor that stands for an operation and its operands -/

/-- `LD r,r'` (40_load8.md R90). -/
def Instr.ofLdRegReg : Reg8 → Reg8 → Instr
  | .b, .b => .ldBB | .b, .c => .ldBC | .b, .d => .ldBD | .b, .e => .ldBE | .b, .h => .ldBH | .b, .l => .ldBL
  | .b, .a => .ldBA | .c, .b => .ldCB | .c, .c => .ldCC | .c, .d => .ldCD | .c, .e => .ldCE | .c, .h => .ldCH
  | .c, .l => .ldCL | .c, .a => .ldCA | .d, .b => .ldDB | .d, .c => .ldDC | .d, .d => .ldDD | .d, .e => .ldDE
  | .d, .h => .ldDH | .d, .l => .ldDL | .d, .a => .ldDA | .e, .b => .ldEB | .e, .c => .ldEC | .e, .d => .ldED
  | .e, .e => .ldEE | .e, .h => .ldEH | .e, .l => .ldEL | .e, .a => .ldEA | .h, .b => .ldHB | .h, .c => .ldHC
  | .h, .d => .ldHD | .h, .e => .ldHE | .h, .h => .ldHH | .h, .l => .ldHL | .h, .a => .ldHA | .l, .b => .ldLB
  | .l, .c => .ldLC | .l, .d => .ldLD | .l, .e => .ldLE | .l, .h => .ldLH | .l, .l => .ldLL | .l, .a => .ldLA
  | .a, .b => .ldAB | .a, .c => .ldAC | .a, .d => .ldAD | .a, .e => .ldAE | .a, .h => .ldAH | .a, .l => .ldAL
  | .a, .a => .ldAA

/-- `LD r,n` (40_load8.md R91). -/
def Instr.ofLdRegN : Reg8 → Byte → Instr
  | .b, n => .ldBN n | .c, n => .ldCN n | .d, n => .ldDN n | .e, n => .ldEN n | .h, n => .ldHN n
  | .l, n => .ldLN n | .a, n => .ldAN n

/-- `LD r,(HL)` (40_load8.md R92). -/
def Instr.ofLdRegAtHl : Reg8 → Instr
  | .b => .ldBAtHl | .c => .ldCAtHl | .d => .ldDAtHl | .e => .ldEAtHl | .h => .ldHAtHl | .l => .ldLAtHl
  | .a => .ldAAtHl

/-- `LD (HL),r` (40_load8.md R93). -/
def Instr.ofLdAtHlReg : Reg8 → Instr
  | .b => .ldAtHlB | .c => .ldAtHlC | .d => .ldAtHlD | .e => .ldAtHlE | .h => .ldAtHlH | .l => .ldAtHlL
  | .a => .ldAtHlA

/-- `alu[y] A,s` with its three operand forms (42_alu8.md R120 to R128). -/
def Instr.ofAlu : AluOp → Source → Instr
  | .add, .reg .b => .addAB | .add, .reg .c => .addAC | .add, .reg .d => .addAD | .add, .reg .e => .addAE
  | .add, .reg .h => .addAH | .add, .reg .l => .addAL | .add, .atHl => .addAAtHl | .add, .reg .a => .addAA
  | .add, .imm n => .addAN n | .adc, .reg .b => .adcAB | .adc, .reg .c => .adcAC | .adc, .reg .d => .adcAD
  | .adc, .reg .e => .adcAE | .adc, .reg .h => .adcAH | .adc, .reg .l => .adcAL | .adc, .atHl => .adcAAtHl
  | .adc, .reg .a => .adcAA | .adc, .imm n => .adcAN n | .sub, .reg .b => .subB | .sub, .reg .c => .subC
  | .sub, .reg .d => .subD | .sub, .reg .e => .subE | .sub, .reg .h => .subH | .sub, .reg .l => .subL
  | .sub, .atHl => .subAtHl | .sub, .reg .a => .subA | .sub, .imm n => .subN n | .sbc, .reg .b => .sbcAB
  | .sbc, .reg .c => .sbcAC | .sbc, .reg .d => .sbcAD | .sbc, .reg .e => .sbcAE | .sbc, .reg .h => .sbcAH
  | .sbc, .reg .l => .sbcAL | .sbc, .atHl => .sbcAAtHl | .sbc, .reg .a => .sbcAA | .sbc, .imm n => .sbcAN n
  | .and, .reg .b => .andB | .and, .reg .c => .andC | .and, .reg .d => .andD | .and, .reg .e => .andE
  | .and, .reg .h => .andH | .and, .reg .l => .andL | .and, .atHl => .andAtHl | .and, .reg .a => .andA
  | .and, .imm n => .andN n | .xor, .reg .b => .xorB | .xor, .reg .c => .xorC | .xor, .reg .d => .xorD
  | .xor, .reg .e => .xorE | .xor, .reg .h => .xorH | .xor, .reg .l => .xorL | .xor, .atHl => .xorAtHl
  | .xor, .reg .a => .xorA | .xor, .imm n => .xorN n | .or, .reg .b => .orB | .or, .reg .c => .orC
  | .or, .reg .d => .orD | .or, .reg .e => .orE | .or, .reg .h => .orH | .or, .reg .l => .orL
  | .or, .atHl => .orAtHl | .or, .reg .a => .orA | .or, .imm n => .orN n | .cp, .reg .b => .cpB
  | .cp, .reg .c => .cpC | .cp, .reg .d => .cpD | .cp, .reg .e => .cpE | .cp, .reg .h => .cpH
  | .cp, .reg .l => .cpL | .cp, .atHl => .cpAtHl | .cp, .reg .a => .cpA | .cp, .imm n => .cpN n

/-- `INC r` and `INC (HL)` (42_alu8.md R129, R130). -/
def Instr.ofInc : Loc → Instr
  | .reg .b => .incB | .reg .c => .incC | .reg .d => .incD | .reg .e => .incE | .reg .h => .incH
  | .reg .l => .incL | .atHl => .incAtHl | .reg .a => .incA

/-- `DEC r` and `DEC (HL)` (42_alu8.md R131, R132). -/
def Instr.ofDec : Loc → Instr
  | .reg .b => .decB | .reg .c => .decC | .reg .d => .decD | .reg .e => .decE | .reg .h => .decH
  | .reg .l => .decL | .atHl => .decAtHl | .reg .a => .decA

/-- `LD rr,nn` (41_load16.md R110). -/
def Instr.ofLdPairNn : Reg16 → Word → Instr
  | .bc, nn => .ldBcNn nn | .de, nn => .ldDeNn nn | .hl, nn => .ldHlNn nn | .sp, nn => .ldSpNn nn

/-- `ADD HL,rr` (43_alu16.md R140). -/
def Instr.ofAddHl : Reg16 → Instr
  | .bc => .addHlBc | .de => .addHlDe | .hl => .addHlHl | .sp => .addHlSp

/-- `INC rr` (43_alu16.md R141). -/
def Instr.ofIncPair : Reg16 → Instr
  | .bc => .incBc | .de => .incDe | .hl => .incHl | .sp => .incSp

/-- `DEC rr` (43_alu16.md R142). -/
def Instr.ofDecPair : Reg16 → Instr
  | .bc => .decBc | .de => .decDe | .hl => .decHl | .sp => .decSp

/-- `PUSH rr` (41_load16.md R112). -/
def Instr.ofPush : StackReg → Instr
  | .bc => .pushBc | .de => .pushDe | .hl => .pushHl | .af => .pushAf

/-- `POP rr` (41_load16.md R113). -/
def Instr.ofPop : StackReg → Instr
  | .bc => .popBc | .de => .popDe | .hl => .popHl | .af => .popAf

/-- `JP cc,nn` (45_control.md R172). -/
def Instr.ofJp : Cond → Word → Instr
  | .nz, nn => .jpNzNn nn | .z, nn => .jpZNn nn | .nc, nn => .jpNcNn nn | .c, nn => .jpCNn nn

/-- `JR cc,e` (45_control.md R175). -/
def Instr.ofJr : Cond → Byte → Instr
  | .nz, e => .jrNzE e | .z, e => .jrZE e | .nc, e => .jrNcE e | .c, e => .jrCE e

/-- `CALL cc,nn` (45_control.md R177). -/
def Instr.ofCall : Cond → Word → Instr
  | .nz, nn => .callNzNn nn | .z, nn => .callZNn nn | .nc, nn => .callNcNn nn | .c, nn => .callCNn nn

/-- `RET cc` (45_control.md R179). -/
def Instr.ofRet : Cond → Instr
  | .nz => .retNz | .z => .retZ | .nc => .retNc | .c => .retC

/-- `RST 8*y` (45_control.md R181). -/
def Instr.ofRst : Fin 8 → Instr
  | 0 => .rst00 | 1 => .rst08 | 2 => .rst10 | 3 => .rst18 | 4 => .rst20 | 5 => .rst28 | 6 => .rst30
  | 7 => .rst38

/-- The unassigned base opcodes (46_system.md R192). -/
def Instr.ofUnassigned : Unassigned → Instr
  | .d3 => .unassignedD3 | .db => .unassignedDB | .dd => .unassignedDD | .e3 => .unassignedE3
  | .e4 => .unassignedE4 | .eb => .unassignedEB | .ec => .unassignedEC | .ed => .unassignedED
  | .f4 => .unassignedF4 | .fc => .unassignedFC | .fd => .unassignedFD

/-- The rotates, shifts and SWAP of the 0xCB table (44_rotate_shift_bit.md R155 to R162). -/
def Instr.ofRot : RotOp → Loc → Instr
  | .rlc, .reg .b => .rlcB | .rlc, .reg .c => .rlcC | .rlc, .reg .d => .rlcD | .rlc, .reg .e => .rlcE
  | .rlc, .reg .h => .rlcH | .rlc, .reg .l => .rlcL | .rlc, .atHl => .rlcAtHl | .rlc, .reg .a => .rlcA
  | .rrc, .reg .b => .rrcB | .rrc, .reg .c => .rrcC | .rrc, .reg .d => .rrcD | .rrc, .reg .e => .rrcE
  | .rrc, .reg .h => .rrcH | .rrc, .reg .l => .rrcL | .rrc, .atHl => .rrcAtHl | .rrc, .reg .a => .rrcA
  | .rl, .reg .b => .rlB | .rl, .reg .c => .rlC | .rl, .reg .d => .rlD | .rl, .reg .e => .rlE
  | .rl, .reg .h => .rlH | .rl, .reg .l => .rlL | .rl, .atHl => .rlAtHl | .rl, .reg .a => .rlA
  | .rr, .reg .b => .rrB | .rr, .reg .c => .rrC | .rr, .reg .d => .rrD | .rr, .reg .e => .rrE
  | .rr, .reg .h => .rrH | .rr, .reg .l => .rrL | .rr, .atHl => .rrAtHl | .rr, .reg .a => .rrA
  | .sla, .reg .b => .slaB | .sla, .reg .c => .slaC | .sla, .reg .d => .slaD | .sla, .reg .e => .slaE
  | .sla, .reg .h => .slaH | .sla, .reg .l => .slaL | .sla, .atHl => .slaAtHl | .sla, .reg .a => .slaA
  | .sra, .reg .b => .sraB | .sra, .reg .c => .sraC | .sra, .reg .d => .sraD | .sra, .reg .e => .sraE
  | .sra, .reg .h => .sraH | .sra, .reg .l => .sraL | .sra, .atHl => .sraAtHl | .sra, .reg .a => .sraA
  | .swap, .reg .b => .swapB | .swap, .reg .c => .swapC | .swap, .reg .d => .swapD | .swap, .reg .e => .swapE
  | .swap, .reg .h => .swapH | .swap, .reg .l => .swapL | .swap, .atHl => .swapAtHl | .swap, .reg .a => .swapA
  | .srl, .reg .b => .srlB | .srl, .reg .c => .srlC | .srl, .reg .d => .srlD | .srl, .reg .e => .srlE
  | .srl, .reg .h => .srlH | .srl, .reg .l => .srlL | .srl, .atHl => .srlAtHl | .srl, .reg .a => .srlA

/-- `BIT b,o` (44_rotate_shift_bit.md R163). -/
def Instr.ofBit : Fin 8 → Loc → Instr
  | 0, .reg .b => .bit0B | 0, .reg .c => .bit0C | 0, .reg .d => .bit0D | 0, .reg .e => .bit0E
  | 0, .reg .h => .bit0H | 0, .reg .l => .bit0L | 0, .atHl => .bit0AtHl | 0, .reg .a => .bit0A
  | 1, .reg .b => .bit1B | 1, .reg .c => .bit1C | 1, .reg .d => .bit1D | 1, .reg .e => .bit1E
  | 1, .reg .h => .bit1H | 1, .reg .l => .bit1L | 1, .atHl => .bit1AtHl | 1, .reg .a => .bit1A
  | 2, .reg .b => .bit2B | 2, .reg .c => .bit2C | 2, .reg .d => .bit2D | 2, .reg .e => .bit2E
  | 2, .reg .h => .bit2H | 2, .reg .l => .bit2L | 2, .atHl => .bit2AtHl | 2, .reg .a => .bit2A
  | 3, .reg .b => .bit3B | 3, .reg .c => .bit3C | 3, .reg .d => .bit3D | 3, .reg .e => .bit3E
  | 3, .reg .h => .bit3H | 3, .reg .l => .bit3L | 3, .atHl => .bit3AtHl | 3, .reg .a => .bit3A
  | 4, .reg .b => .bit4B | 4, .reg .c => .bit4C | 4, .reg .d => .bit4D | 4, .reg .e => .bit4E
  | 4, .reg .h => .bit4H | 4, .reg .l => .bit4L | 4, .atHl => .bit4AtHl | 4, .reg .a => .bit4A
  | 5, .reg .b => .bit5B | 5, .reg .c => .bit5C | 5, .reg .d => .bit5D | 5, .reg .e => .bit5E
  | 5, .reg .h => .bit5H | 5, .reg .l => .bit5L | 5, .atHl => .bit5AtHl | 5, .reg .a => .bit5A
  | 6, .reg .b => .bit6B | 6, .reg .c => .bit6C | 6, .reg .d => .bit6D | 6, .reg .e => .bit6E
  | 6, .reg .h => .bit6H | 6, .reg .l => .bit6L | 6, .atHl => .bit6AtHl | 6, .reg .a => .bit6A
  | 7, .reg .b => .bit7B | 7, .reg .c => .bit7C | 7, .reg .d => .bit7D | 7, .reg .e => .bit7E
  | 7, .reg .h => .bit7H | 7, .reg .l => .bit7L | 7, .atHl => .bit7AtHl | 7, .reg .a => .bit7A

/-- `RES b,o` (44_rotate_shift_bit.md R164). -/
def Instr.ofRes : Fin 8 → Loc → Instr
  | 0, .reg .b => .res0B | 0, .reg .c => .res0C | 0, .reg .d => .res0D | 0, .reg .e => .res0E
  | 0, .reg .h => .res0H | 0, .reg .l => .res0L | 0, .atHl => .res0AtHl | 0, .reg .a => .res0A
  | 1, .reg .b => .res1B | 1, .reg .c => .res1C | 1, .reg .d => .res1D | 1, .reg .e => .res1E
  | 1, .reg .h => .res1H | 1, .reg .l => .res1L | 1, .atHl => .res1AtHl | 1, .reg .a => .res1A
  | 2, .reg .b => .res2B | 2, .reg .c => .res2C | 2, .reg .d => .res2D | 2, .reg .e => .res2E
  | 2, .reg .h => .res2H | 2, .reg .l => .res2L | 2, .atHl => .res2AtHl | 2, .reg .a => .res2A
  | 3, .reg .b => .res3B | 3, .reg .c => .res3C | 3, .reg .d => .res3D | 3, .reg .e => .res3E
  | 3, .reg .h => .res3H | 3, .reg .l => .res3L | 3, .atHl => .res3AtHl | 3, .reg .a => .res3A
  | 4, .reg .b => .res4B | 4, .reg .c => .res4C | 4, .reg .d => .res4D | 4, .reg .e => .res4E
  | 4, .reg .h => .res4H | 4, .reg .l => .res4L | 4, .atHl => .res4AtHl | 4, .reg .a => .res4A
  | 5, .reg .b => .res5B | 5, .reg .c => .res5C | 5, .reg .d => .res5D | 5, .reg .e => .res5E
  | 5, .reg .h => .res5H | 5, .reg .l => .res5L | 5, .atHl => .res5AtHl | 5, .reg .a => .res5A
  | 6, .reg .b => .res6B | 6, .reg .c => .res6C | 6, .reg .d => .res6D | 6, .reg .e => .res6E
  | 6, .reg .h => .res6H | 6, .reg .l => .res6L | 6, .atHl => .res6AtHl | 6, .reg .a => .res6A
  | 7, .reg .b => .res7B | 7, .reg .c => .res7C | 7, .reg .d => .res7D | 7, .reg .e => .res7E
  | 7, .reg .h => .res7H | 7, .reg .l => .res7L | 7, .atHl => .res7AtHl | 7, .reg .a => .res7A

/-- `SET b,o` (44_rotate_shift_bit.md R165). -/
def Instr.ofSet : Fin 8 → Loc → Instr
  | 0, .reg .b => .set0B | 0, .reg .c => .set0C | 0, .reg .d => .set0D | 0, .reg .e => .set0E
  | 0, .reg .h => .set0H | 0, .reg .l => .set0L | 0, .atHl => .set0AtHl | 0, .reg .a => .set0A
  | 1, .reg .b => .set1B | 1, .reg .c => .set1C | 1, .reg .d => .set1D | 1, .reg .e => .set1E
  | 1, .reg .h => .set1H | 1, .reg .l => .set1L | 1, .atHl => .set1AtHl | 1, .reg .a => .set1A
  | 2, .reg .b => .set2B | 2, .reg .c => .set2C | 2, .reg .d => .set2D | 2, .reg .e => .set2E
  | 2, .reg .h => .set2H | 2, .reg .l => .set2L | 2, .atHl => .set2AtHl | 2, .reg .a => .set2A
  | 3, .reg .b => .set3B | 3, .reg .c => .set3C | 3, .reg .d => .set3D | 3, .reg .e => .set3E
  | 3, .reg .h => .set3H | 3, .reg .l => .set3L | 3, .atHl => .set3AtHl | 3, .reg .a => .set3A
  | 4, .reg .b => .set4B | 4, .reg .c => .set4C | 4, .reg .d => .set4D | 4, .reg .e => .set4E
  | 4, .reg .h => .set4H | 4, .reg .l => .set4L | 4, .atHl => .set4AtHl | 4, .reg .a => .set4A
  | 5, .reg .b => .set5B | 5, .reg .c => .set5C | 5, .reg .d => .set5D | 5, .reg .e => .set5E
  | 5, .reg .h => .set5H | 5, .reg .l => .set5L | 5, .atHl => .set5AtHl | 5, .reg .a => .set5A
  | 6, .reg .b => .set6B | 6, .reg .c => .set6C | 6, .reg .d => .set6D | 6, .reg .e => .set6E
  | 6, .reg .h => .set6H | 6, .reg .l => .set6L | 6, .atHl => .set6AtHl | 6, .reg .a => .set6A
  | 7, .reg .b => .set7B | 7, .reg .c => .set7C | 7, .reg .d => .set7D | 7, .reg .e => .set7E
  | 7, .reg .h => .set7H | 7, .reg .l => .set7L | 7, .atHl => .set7AtHl | 7, .reg .a => .set7A

/-! ## Fields and operand tables -/

/-- The field x, bits 7:6 of an opcode byte (30_encoding.md R72). -/
def fieldX (op : Byte) : Fin 4 := (op.extractLsb' 6 2).toFin

/-- The field y, bits 5:3 (30_encoding.md R72). -/
def fieldY (op : Byte) : Fin 8 := (op.extractLsb' 3 3).toFin

/-- The field z, bits 2:0 (30_encoding.md R72). -/
def fieldZ (op : Byte) : Fin 8 := (op.extractLsb' 0 3).toFin

/-- The field p, bits 5:4 (30_encoding.md R72). -/
def fieldP (op : Byte) : Fin 4 := (op.extractLsb' 4 2).toFin

/-- The field q, bit 3 (30_encoding.md R72). -/
def fieldQ (op : Byte) : Bool := op.getLsbD 3

/-- The operand an r field selects (30_encoding.md R73). -/
def Loc.ofField : Fin 8 → Loc
  | 0 => .reg .b | 1 => .reg .c | 2 => .reg .d | 3 => .reg .e
  | 4 => .reg .h | 5 => .reg .l | 6 => .atHl | 7 => .reg .a

/-- An r field as the source of an accumulator instruction (42_alu8.md R120). -/
def Loc.toSource : Loc → Source
  | .reg r => .reg r
  | .atHl => .atHl

/-- The pair `rp[p]` (30_encoding.md R75). -/
def Reg16.ofField : Fin 4 → Reg16
  | 0 => .bc | 1 => .de | 2 => .hl | 3 => .sp

/-- The pair `rp2[p]` (30_encoding.md R75). -/
def StackReg.ofField : Fin 4 → StackReg
  | 0 => .bc | 1 => .de | 2 => .hl | 3 => .af

/-- The condition of a condition field (30_encoding.md R77). -/
def Cond.ofField : Fin 4 → Cond
  | 0 => .nz | 1 => .z | 2 => .nc | 3 => .c

/-- The operation `alu[y]` (30_encoding.md R76). -/
def AluOp.ofField : Fin 8 → AluOp
  | 0 => .add | 1 => .adc | 2 => .sub | 3 => .sbc | 4 => .and | 5 => .xor | 6 => .or | 7 => .cp

/-- The operation of the 0xCB table with x = 0 (30_encoding.md R78). -/
def RotOp.ofField : Fin 8 → RotOp
  | 0 => .rlc | 1 => .rrc | 2 => .rl | 3 => .rr | 4 => .sla | 5 => .sra | 6 => .swap | 7 => .srl

/-! ## Decoder -/

/-- The 16-bit immediate `nn = b2 : b1`, low byte first (30_encoding.md R79). -/
def immWord (b1 b2 : Byte) : Word := b2 ++ b1

/-- The rows of the base table with x = 0 (30_encoding.md R74). -/
def decodeX0 (op b1 b2 : Byte) : Instr :=
  match fieldZ op with
  | 0 =>
    match fieldY op with
    | 0 => .nop
    | 1 => .ldAtNnSp (immWord b1 b2)
    | 2 => .stop b1
    | 3 => .jrE b1
    | 4 => .ofJr (Cond.ofField 0) b1
    | 5 => .ofJr (Cond.ofField 1) b1
    | 6 => .ofJr (Cond.ofField 2) b1
    | 7 => .ofJr (Cond.ofField 3) b1
  | 1 =>
    match fieldQ op with
    | false => .ofLdPairNn (Reg16.ofField (fieldP op)) (immWord b1 b2)
    | true => .ofAddHl (Reg16.ofField (fieldP op))
  | 2 =>
    match fieldQ op, fieldP op with
    | false, 0 => .ldAtBcA
    | false, 1 => .ldAtDeA
    | false, 2 => .ldAtHlIncA
    | false, 3 => .ldAtHlDecA
    | true, 0 => .ldAAtBc
    | true, 1 => .ldAAtDe
    | true, 2 => .ldAAtHlInc
    | true, 3 => .ldAAtHlDec
  | 3 =>
    match fieldQ op with
    | false => .ofIncPair (Reg16.ofField (fieldP op))
    | true => .ofDecPair (Reg16.ofField (fieldP op))
  | 4 => .ofInc (Loc.ofField (fieldY op))
  | 5 => .ofDec (Loc.ofField (fieldY op))
  | 6 =>
    match Loc.ofField (fieldY op) with
    | .reg r => .ofLdRegN r b1
    | .atHl => .ldAtHlN b1
  | 7 =>
    match fieldY op with
    | 0 => .rlca | 1 => .rrca | 2 => .rla | 3 => .rra | 4 => .daa | 5 => .cpl | 6 => .scf | 7 => .ccf

/-- The rows of the base table with x = 1 (30_encoding.md R74). -/
def decodeX1 (op : Byte) : Instr :=
  match Loc.ofField (fieldY op), Loc.ofField (fieldZ op) with
  | .reg dst, .reg src => .ofLdRegReg dst src
  | .reg dst, .atHl => .ofLdRegAtHl dst
  | .atHl, .reg src => .ofLdAtHlReg src
  | .atHl, .atHl => .halt

/-- The rows of the base table with x = 3 (30_encoding.md R74). -/
def decodeX3 (op b1 b2 : Byte) : Instr :=
  match fieldZ op with
  | 0 =>
    match fieldY op with
    | 0 => .ofRet (Cond.ofField 0)
    | 1 => .ofRet (Cond.ofField 1)
    | 2 => .ofRet (Cond.ofField 2)
    | 3 => .ofRet (Cond.ofField 3)
    | 4 => .ldhAtNA b1
    | 5 => .addSpE b1
    | 6 => .ldhAAtN b1
    | 7 => .ldHlSpPlusE b1
  | 1 =>
    match fieldQ op, fieldP op with
    | false, p => .ofPop (StackReg.ofField p)
    | true, 0 => .ret
    | true, 1 => .reti
    | true, 2 => .jpHl
    | true, 3 => .ldSpHl
  | 2 =>
    match fieldY op with
    | 0 => .ofJp (Cond.ofField 0) (immWord b1 b2)
    | 1 => .ofJp (Cond.ofField 1) (immWord b1 b2)
    | 2 => .ofJp (Cond.ofField 2) (immWord b1 b2)
    | 3 => .ofJp (Cond.ofField 3) (immWord b1 b2)
    | 4 => .ldhAtCA
    | 5 => .ldAtNnA (immWord b1 b2)
    | 6 => .ldhAAtC
    | 7 => .ldAAtNn (immWord b1 b2)
  | 3 =>
    match fieldY op with
    | 0 => .jpNn (immWord b1 b2)
    | 1 => .prefixCb b1
    | 2 => .ofUnassigned .d3
    | 3 => .ofUnassigned .db
    | 4 => .ofUnassigned .e3
    | 5 => .ofUnassigned .eb
    | 6 => .di
    | 7 => .ei
  | 4 =>
    match fieldY op with
    | 0 => .ofCall (Cond.ofField 0) (immWord b1 b2)
    | 1 => .ofCall (Cond.ofField 1) (immWord b1 b2)
    | 2 => .ofCall (Cond.ofField 2) (immWord b1 b2)
    | 3 => .ofCall (Cond.ofField 3) (immWord b1 b2)
    | 4 => .ofUnassigned .e4
    | 5 => .ofUnassigned .ec
    | 6 => .ofUnassigned .f4
    | 7 => .ofUnassigned .fc
  | 5 =>
    match fieldQ op, fieldP op with
    | false, p => .ofPush (StackReg.ofField p)
    | true, 0 => .callNn (immWord b1 b2)
    | true, 1 => .ofUnassigned .dd
    | true, 2 => .ofUnassigned .ed
    | true, 3 => .ofUnassigned .fd
  | 6 => .ofAlu (AluOp.ofField (fieldY op)) (.imm b1)
  | 7 => .ofRst (fieldY op)

/-- The base table (30_encoding.md R74): the row of the first byte, with the operand bytes that follow it. The row of 0xCB
is `prefixCb`, which `decode` resolves. -/
def decodeBase (op b1 b2 : Byte) : Instr :=
  match fieldX op with
  | 0 => decodeX0 op b1 b2
  | 1 => decodeX1 op
  | 2 => .ofAlu (AluOp.ofField (fieldY op)) (Loc.ofField (fieldZ op)).toSource
  | 3 => decodeX3 op b1 b2

/-- The 0xCB table (30_encoding.md R78): the row of the second byte. -/
def decodeCb (op2 : Byte) : Instr :=
  match fieldX op2 with
  | 0 => .ofRot (RotOp.ofField (fieldY op2)) (Loc.ofField (fieldZ op2))
  | 1 => .ofBit (fieldY op2) (Loc.ofField (fieldZ op2))
  | 2 => .ofRes (fieldY op2) (Loc.ofField (fieldZ op2))
  | 3 => .ofSet (fieldY op2) (Loc.ofField (fieldZ op2))

/-- The 0xCB prefix byte (30_encoding.md R83). -/
def prefixByte : Byte := 0xCB

/-- How many bytes follow the first byte of an instruction (30_encoding.md R71): the first byte alone tells. -/
def operandCount (op : Byte) : Nat :=
  if op ∈ ([0x01, 0x11, 0x21, 0x31, 0x08, 0xC2, 0xCA, 0xD2, 0xDA, 0xC3, 0xC4, 0xCC, 0xD4, 0xDC, 0xCD,
      0xEA, 0xFA] : List Byte) then 2
  else if op ∈ ([0x06, 0x0E, 0x16, 0x1E, 0x26, 0x2E, 0x36, 0x3E, 0xC6, 0xCE, 0xD6, 0xDE, 0xE6, 0xEE, 0xF6, 0xFE,
      0xE0, 0xF0, 0x18, 0x20, 0x28, 0x30, 0x38, 0xE8, 0xF8, 0x10, 0xCB] : List Byte) then 1
  else 0

/-- The instruction of a first byte and its operand bytes: the 0xCB prefix selects the second table (46_system.md R191). -/
def decodeOp (op b1 b2 : Byte) : Instr :=
  if op = prefixByte then decodeCb b1 else decodeBase op b1 b2

/-- Why the decoder rejects a list of bytes: it is shorter than the instruction its first byte starts (30_encoding.md R83). -/
inductive DecodeError where
  | noBytes
  | missingOperand (op : Byte)
deriving DecidableEq, Repr

/-- What the decoder answers: an instruction and the bytes after it, or a rejection by name. -/
inductive Decoded where
  | instr (i : Instr) (rest : List Byte)
  | rejected (why : DecodeError)
deriving DecidableEq, Repr

/-- The decoder, total on every list of bytes (30_encoding.md R83). -/
def decode : List Byte → Decoded
  | [] => .rejected .noBytes
  | op :: rest =>
    match operandCount op, rest with
    | 0, r => .instr (decodeOp op 0 0) r
    | 1, b1 :: r => .instr (decodeOp op b1 0) r
    | 2, b1 :: b2 :: r => .instr (decodeOp op b1 b2) r
    | _, _ => .rejected (.missingOperand op)

/-! ## The numbering of spec/opcode_table.json -/

/-- The three bytes, in stream order, of an instruction whose bits are `w`. A row of 16 bits whose `match` is
`0xCB00 | op2` is numbered by the table with the prefix in bits 15:8 (30_encoding.md R86); every other number has its
first byte in bits 7:0, the second in bits 15:8, the third in bits 23:16. Bits from `nbits` up are 0. Log 9. -/
def tableBytes (nbits w : Nat) : List Byte :=
  let v := w % 2 ^ nbits
  if nbits = 16 ∧ v / 256 = 0xCB then [prefixByte, BitVec.ofNat 8 v, 0]
  else [BitVec.ofNat 8 v, BitVec.ofNat 8 (v / 256), BitVec.ofNat 8 (v / 65536)]

/-- The instruction the decoder reads from a word numbered as spec/opcode_table.json numbers it. -/
def decodeTableWord (nbits w : Nat) : Option Instr :=
  match decode (tableBytes nbits w) with
  | .instr i _ => some i
  | .rejected _ => none

/-! ## Encoder -/

/-- The two bytes of a 16-bit operand, low byte first (30_encoding.md R79, 20_memory.md R51). -/
def wordBytes (nn : Word) : List Byte := [nn.extractLsb' 0 8, nn.extractLsb' 8 8]

/-- The bytes of an instruction in stream order: the first byte is the `match` of its row in spec/opcode_table.json (for a
row of the 0xCB table, 0xCB and the low byte of its `match`), then its operand bytes (30_encoding.md R71, R79). -/
def encode : Instr → List Byte
  | .nop => [0x00]
  | .ldBcNn nn => 0x01 :: wordBytes nn
  | .ldAtBcA => [0x02]
  | .incBc => [0x03]
  | .incB => [0x04]
  | .decB => [0x05]
  | .ldBN n => [0x06, n]
  | .rlca => [0x07]
  | .ldAtNnSp nn => 0x08 :: wordBytes nn
  | .addHlBc => [0x09]
  | .ldAAtBc => [0x0A]
  | .decBc => [0x0B]
  | .incC => [0x0C]
  | .decC => [0x0D]
  | .ldCN n => [0x0E, n]
  | .rrca => [0x0F]
  | .stop x => [0x10, x]
  | .ldDeNn nn => 0x11 :: wordBytes nn
  | .ldAtDeA => [0x12]
  | .incDe => [0x13]
  | .incD => [0x14]
  | .decD => [0x15]
  | .ldDN n => [0x16, n]
  | .rla => [0x17]
  | .jrE e => [0x18, e]
  | .addHlDe => [0x19]
  | .ldAAtDe => [0x1A]
  | .decDe => [0x1B]
  | .incE => [0x1C]
  | .decE => [0x1D]
  | .ldEN n => [0x1E, n]
  | .rra => [0x1F]
  | .jrNzE e => [0x20, e]
  | .ldHlNn nn => 0x21 :: wordBytes nn
  | .ldAtHlIncA => [0x22]
  | .incHl => [0x23]
  | .incH => [0x24]
  | .decH => [0x25]
  | .ldHN n => [0x26, n]
  | .daa => [0x27]
  | .jrZE e => [0x28, e]
  | .addHlHl => [0x29]
  | .ldAAtHlInc => [0x2A]
  | .decHl => [0x2B]
  | .incL => [0x2C]
  | .decL => [0x2D]
  | .ldLN n => [0x2E, n]
  | .cpl => [0x2F]
  | .jrNcE e => [0x30, e]
  | .ldSpNn nn => 0x31 :: wordBytes nn
  | .ldAtHlDecA => [0x32]
  | .incSp => [0x33]
  | .incAtHl => [0x34]
  | .decAtHl => [0x35]
  | .ldAtHlN n => [0x36, n]
  | .scf => [0x37]
  | .jrCE e => [0x38, e]
  | .addHlSp => [0x39]
  | .ldAAtHlDec => [0x3A]
  | .decSp => [0x3B]
  | .incA => [0x3C]
  | .decA => [0x3D]
  | .ldAN n => [0x3E, n]
  | .ccf => [0x3F]
  | .ldBB => [0x40]
  | .ldBC => [0x41]
  | .ldBD => [0x42]
  | .ldBE => [0x43]
  | .ldBH => [0x44]
  | .ldBL => [0x45]
  | .ldBAtHl => [0x46]
  | .ldBA => [0x47]
  | .ldCB => [0x48]
  | .ldCC => [0x49]
  | .ldCD => [0x4A]
  | .ldCE => [0x4B]
  | .ldCH => [0x4C]
  | .ldCL => [0x4D]
  | .ldCAtHl => [0x4E]
  | .ldCA => [0x4F]
  | .ldDB => [0x50]
  | .ldDC => [0x51]
  | .ldDD => [0x52]
  | .ldDE => [0x53]
  | .ldDH => [0x54]
  | .ldDL => [0x55]
  | .ldDAtHl => [0x56]
  | .ldDA => [0x57]
  | .ldEB => [0x58]
  | .ldEC => [0x59]
  | .ldED => [0x5A]
  | .ldEE => [0x5B]
  | .ldEH => [0x5C]
  | .ldEL => [0x5D]
  | .ldEAtHl => [0x5E]
  | .ldEA => [0x5F]
  | .ldHB => [0x60]
  | .ldHC => [0x61]
  | .ldHD => [0x62]
  | .ldHE => [0x63]
  | .ldHH => [0x64]
  | .ldHL => [0x65]
  | .ldHAtHl => [0x66]
  | .ldHA => [0x67]
  | .ldLB => [0x68]
  | .ldLC => [0x69]
  | .ldLD => [0x6A]
  | .ldLE => [0x6B]
  | .ldLH => [0x6C]
  | .ldLL => [0x6D]
  | .ldLAtHl => [0x6E]
  | .ldLA => [0x6F]
  | .ldAtHlB => [0x70]
  | .ldAtHlC => [0x71]
  | .ldAtHlD => [0x72]
  | .ldAtHlE => [0x73]
  | .ldAtHlH => [0x74]
  | .ldAtHlL => [0x75]
  | .halt => [0x76]
  | .ldAtHlA => [0x77]
  | .ldAB => [0x78]
  | .ldAC => [0x79]
  | .ldAD => [0x7A]
  | .ldAE => [0x7B]
  | .ldAH => [0x7C]
  | .ldAL => [0x7D]
  | .ldAAtHl => [0x7E]
  | .ldAA => [0x7F]
  | .addAB => [0x80]
  | .addAC => [0x81]
  | .addAD => [0x82]
  | .addAE => [0x83]
  | .addAH => [0x84]
  | .addAL => [0x85]
  | .addAAtHl => [0x86]
  | .addAA => [0x87]
  | .adcAB => [0x88]
  | .adcAC => [0x89]
  | .adcAD => [0x8A]
  | .adcAE => [0x8B]
  | .adcAH => [0x8C]
  | .adcAL => [0x8D]
  | .adcAAtHl => [0x8E]
  | .adcAA => [0x8F]
  | .subB => [0x90]
  | .subC => [0x91]
  | .subD => [0x92]
  | .subE => [0x93]
  | .subH => [0x94]
  | .subL => [0x95]
  | .subAtHl => [0x96]
  | .subA => [0x97]
  | .sbcAB => [0x98]
  | .sbcAC => [0x99]
  | .sbcAD => [0x9A]
  | .sbcAE => [0x9B]
  | .sbcAH => [0x9C]
  | .sbcAL => [0x9D]
  | .sbcAAtHl => [0x9E]
  | .sbcAA => [0x9F]
  | .andB => [0xA0]
  | .andC => [0xA1]
  | .andD => [0xA2]
  | .andE => [0xA3]
  | .andH => [0xA4]
  | .andL => [0xA5]
  | .andAtHl => [0xA6]
  | .andA => [0xA7]
  | .xorB => [0xA8]
  | .xorC => [0xA9]
  | .xorD => [0xAA]
  | .xorE => [0xAB]
  | .xorH => [0xAC]
  | .xorL => [0xAD]
  | .xorAtHl => [0xAE]
  | .xorA => [0xAF]
  | .orB => [0xB0]
  | .orC => [0xB1]
  | .orD => [0xB2]
  | .orE => [0xB3]
  | .orH => [0xB4]
  | .orL => [0xB5]
  | .orAtHl => [0xB6]
  | .orA => [0xB7]
  | .cpB => [0xB8]
  | .cpC => [0xB9]
  | .cpD => [0xBA]
  | .cpE => [0xBB]
  | .cpH => [0xBC]
  | .cpL => [0xBD]
  | .cpAtHl => [0xBE]
  | .cpA => [0xBF]
  | .retNz => [0xC0]
  | .popBc => [0xC1]
  | .jpNzNn nn => 0xC2 :: wordBytes nn
  | .jpNn nn => 0xC3 :: wordBytes nn
  | .callNzNn nn => 0xC4 :: wordBytes nn
  | .pushBc => [0xC5]
  | .addAN n => [0xC6, n]
  | .rst00 => [0xC7]
  | .retZ => [0xC8]
  | .ret => [0xC9]
  | .jpZNn nn => 0xCA :: wordBytes nn
  | .prefixCb op2 => [0xCB, op2]
  | .callZNn nn => 0xCC :: wordBytes nn
  | .callNn nn => 0xCD :: wordBytes nn
  | .adcAN n => [0xCE, n]
  | .rst08 => [0xCF]
  | .retNc => [0xD0]
  | .popDe => [0xD1]
  | .jpNcNn nn => 0xD2 :: wordBytes nn
  | .unassignedD3 => [0xD3]
  | .callNcNn nn => 0xD4 :: wordBytes nn
  | .pushDe => [0xD5]
  | .subN n => [0xD6, n]
  | .rst10 => [0xD7]
  | .retC => [0xD8]
  | .reti => [0xD9]
  | .jpCNn nn => 0xDA :: wordBytes nn
  | .unassignedDB => [0xDB]
  | .callCNn nn => 0xDC :: wordBytes nn
  | .unassignedDD => [0xDD]
  | .sbcAN n => [0xDE, n]
  | .rst18 => [0xDF]
  | .ldhAtNA n => [0xE0, n]
  | .popHl => [0xE1]
  | .ldhAtCA => [0xE2]
  | .unassignedE3 => [0xE3]
  | .unassignedE4 => [0xE4]
  | .pushHl => [0xE5]
  | .andN n => [0xE6, n]
  | .rst20 => [0xE7]
  | .addSpE e => [0xE8, e]
  | .jpHl => [0xE9]
  | .ldAtNnA nn => 0xEA :: wordBytes nn
  | .unassignedEB => [0xEB]
  | .unassignedEC => [0xEC]
  | .unassignedED => [0xED]
  | .xorN n => [0xEE, n]
  | .rst28 => [0xEF]
  | .ldhAAtN n => [0xF0, n]
  | .popAf => [0xF1]
  | .ldhAAtC => [0xF2]
  | .di => [0xF3]
  | .unassignedF4 => [0xF4]
  | .pushAf => [0xF5]
  | .orN n => [0xF6, n]
  | .rst30 => [0xF7]
  | .ldHlSpPlusE e => [0xF8, e]
  | .ldSpHl => [0xF9]
  | .ldAAtNn nn => 0xFA :: wordBytes nn
  | .ei => [0xFB]
  | .unassignedFC => [0xFC]
  | .unassignedFD => [0xFD]
  | .cpN n => [0xFE, n]
  | .rst38 => [0xFF]
  | .rlcB => [0xCB, 0x00]
  | .rlcC => [0xCB, 0x01]
  | .rlcD => [0xCB, 0x02]
  | .rlcE => [0xCB, 0x03]
  | .rlcH => [0xCB, 0x04]
  | .rlcL => [0xCB, 0x05]
  | .rlcAtHl => [0xCB, 0x06]
  | .rlcA => [0xCB, 0x07]
  | .rrcB => [0xCB, 0x08]
  | .rrcC => [0xCB, 0x09]
  | .rrcD => [0xCB, 0x0A]
  | .rrcE => [0xCB, 0x0B]
  | .rrcH => [0xCB, 0x0C]
  | .rrcL => [0xCB, 0x0D]
  | .rrcAtHl => [0xCB, 0x0E]
  | .rrcA => [0xCB, 0x0F]
  | .rlB => [0xCB, 0x10]
  | .rlC => [0xCB, 0x11]
  | .rlD => [0xCB, 0x12]
  | .rlE => [0xCB, 0x13]
  | .rlH => [0xCB, 0x14]
  | .rlL => [0xCB, 0x15]
  | .rlAtHl => [0xCB, 0x16]
  | .rlA => [0xCB, 0x17]
  | .rrB => [0xCB, 0x18]
  | .rrC => [0xCB, 0x19]
  | .rrD => [0xCB, 0x1A]
  | .rrE => [0xCB, 0x1B]
  | .rrH => [0xCB, 0x1C]
  | .rrL => [0xCB, 0x1D]
  | .rrAtHl => [0xCB, 0x1E]
  | .rrA => [0xCB, 0x1F]
  | .slaB => [0xCB, 0x20]
  | .slaC => [0xCB, 0x21]
  | .slaD => [0xCB, 0x22]
  | .slaE => [0xCB, 0x23]
  | .slaH => [0xCB, 0x24]
  | .slaL => [0xCB, 0x25]
  | .slaAtHl => [0xCB, 0x26]
  | .slaA => [0xCB, 0x27]
  | .sraB => [0xCB, 0x28]
  | .sraC => [0xCB, 0x29]
  | .sraD => [0xCB, 0x2A]
  | .sraE => [0xCB, 0x2B]
  | .sraH => [0xCB, 0x2C]
  | .sraL => [0xCB, 0x2D]
  | .sraAtHl => [0xCB, 0x2E]
  | .sraA => [0xCB, 0x2F]
  | .swapB => [0xCB, 0x30]
  | .swapC => [0xCB, 0x31]
  | .swapD => [0xCB, 0x32]
  | .swapE => [0xCB, 0x33]
  | .swapH => [0xCB, 0x34]
  | .swapL => [0xCB, 0x35]
  | .swapAtHl => [0xCB, 0x36]
  | .swapA => [0xCB, 0x37]
  | .srlB => [0xCB, 0x38]
  | .srlC => [0xCB, 0x39]
  | .srlD => [0xCB, 0x3A]
  | .srlE => [0xCB, 0x3B]
  | .srlH => [0xCB, 0x3C]
  | .srlL => [0xCB, 0x3D]
  | .srlAtHl => [0xCB, 0x3E]
  | .srlA => [0xCB, 0x3F]
  | .bit0B => [0xCB, 0x40]
  | .bit0C => [0xCB, 0x41]
  | .bit0D => [0xCB, 0x42]
  | .bit0E => [0xCB, 0x43]
  | .bit0H => [0xCB, 0x44]
  | .bit0L => [0xCB, 0x45]
  | .bit0AtHl => [0xCB, 0x46]
  | .bit0A => [0xCB, 0x47]
  | .bit1B => [0xCB, 0x48]
  | .bit1C => [0xCB, 0x49]
  | .bit1D => [0xCB, 0x4A]
  | .bit1E => [0xCB, 0x4B]
  | .bit1H => [0xCB, 0x4C]
  | .bit1L => [0xCB, 0x4D]
  | .bit1AtHl => [0xCB, 0x4E]
  | .bit1A => [0xCB, 0x4F]
  | .bit2B => [0xCB, 0x50]
  | .bit2C => [0xCB, 0x51]
  | .bit2D => [0xCB, 0x52]
  | .bit2E => [0xCB, 0x53]
  | .bit2H => [0xCB, 0x54]
  | .bit2L => [0xCB, 0x55]
  | .bit2AtHl => [0xCB, 0x56]
  | .bit2A => [0xCB, 0x57]
  | .bit3B => [0xCB, 0x58]
  | .bit3C => [0xCB, 0x59]
  | .bit3D => [0xCB, 0x5A]
  | .bit3E => [0xCB, 0x5B]
  | .bit3H => [0xCB, 0x5C]
  | .bit3L => [0xCB, 0x5D]
  | .bit3AtHl => [0xCB, 0x5E]
  | .bit3A => [0xCB, 0x5F]
  | .bit4B => [0xCB, 0x60]
  | .bit4C => [0xCB, 0x61]
  | .bit4D => [0xCB, 0x62]
  | .bit4E => [0xCB, 0x63]
  | .bit4H => [0xCB, 0x64]
  | .bit4L => [0xCB, 0x65]
  | .bit4AtHl => [0xCB, 0x66]
  | .bit4A => [0xCB, 0x67]
  | .bit5B => [0xCB, 0x68]
  | .bit5C => [0xCB, 0x69]
  | .bit5D => [0xCB, 0x6A]
  | .bit5E => [0xCB, 0x6B]
  | .bit5H => [0xCB, 0x6C]
  | .bit5L => [0xCB, 0x6D]
  | .bit5AtHl => [0xCB, 0x6E]
  | .bit5A => [0xCB, 0x6F]
  | .bit6B => [0xCB, 0x70]
  | .bit6C => [0xCB, 0x71]
  | .bit6D => [0xCB, 0x72]
  | .bit6E => [0xCB, 0x73]
  | .bit6H => [0xCB, 0x74]
  | .bit6L => [0xCB, 0x75]
  | .bit6AtHl => [0xCB, 0x76]
  | .bit6A => [0xCB, 0x77]
  | .bit7B => [0xCB, 0x78]
  | .bit7C => [0xCB, 0x79]
  | .bit7D => [0xCB, 0x7A]
  | .bit7E => [0xCB, 0x7B]
  | .bit7H => [0xCB, 0x7C]
  | .bit7L => [0xCB, 0x7D]
  | .bit7AtHl => [0xCB, 0x7E]
  | .bit7A => [0xCB, 0x7F]
  | .res0B => [0xCB, 0x80]
  | .res0C => [0xCB, 0x81]
  | .res0D => [0xCB, 0x82]
  | .res0E => [0xCB, 0x83]
  | .res0H => [0xCB, 0x84]
  | .res0L => [0xCB, 0x85]
  | .res0AtHl => [0xCB, 0x86]
  | .res0A => [0xCB, 0x87]
  | .res1B => [0xCB, 0x88]
  | .res1C => [0xCB, 0x89]
  | .res1D => [0xCB, 0x8A]
  | .res1E => [0xCB, 0x8B]
  | .res1H => [0xCB, 0x8C]
  | .res1L => [0xCB, 0x8D]
  | .res1AtHl => [0xCB, 0x8E]
  | .res1A => [0xCB, 0x8F]
  | .res2B => [0xCB, 0x90]
  | .res2C => [0xCB, 0x91]
  | .res2D => [0xCB, 0x92]
  | .res2E => [0xCB, 0x93]
  | .res2H => [0xCB, 0x94]
  | .res2L => [0xCB, 0x95]
  | .res2AtHl => [0xCB, 0x96]
  | .res2A => [0xCB, 0x97]
  | .res3B => [0xCB, 0x98]
  | .res3C => [0xCB, 0x99]
  | .res3D => [0xCB, 0x9A]
  | .res3E => [0xCB, 0x9B]
  | .res3H => [0xCB, 0x9C]
  | .res3L => [0xCB, 0x9D]
  | .res3AtHl => [0xCB, 0x9E]
  | .res3A => [0xCB, 0x9F]
  | .res4B => [0xCB, 0xA0]
  | .res4C => [0xCB, 0xA1]
  | .res4D => [0xCB, 0xA2]
  | .res4E => [0xCB, 0xA3]
  | .res4H => [0xCB, 0xA4]
  | .res4L => [0xCB, 0xA5]
  | .res4AtHl => [0xCB, 0xA6]
  | .res4A => [0xCB, 0xA7]
  | .res5B => [0xCB, 0xA8]
  | .res5C => [0xCB, 0xA9]
  | .res5D => [0xCB, 0xAA]
  | .res5E => [0xCB, 0xAB]
  | .res5H => [0xCB, 0xAC]
  | .res5L => [0xCB, 0xAD]
  | .res5AtHl => [0xCB, 0xAE]
  | .res5A => [0xCB, 0xAF]
  | .res6B => [0xCB, 0xB0]
  | .res6C => [0xCB, 0xB1]
  | .res6D => [0xCB, 0xB2]
  | .res6E => [0xCB, 0xB3]
  | .res6H => [0xCB, 0xB4]
  | .res6L => [0xCB, 0xB5]
  | .res6AtHl => [0xCB, 0xB6]
  | .res6A => [0xCB, 0xB7]
  | .res7B => [0xCB, 0xB8]
  | .res7C => [0xCB, 0xB9]
  | .res7D => [0xCB, 0xBA]
  | .res7E => [0xCB, 0xBB]
  | .res7H => [0xCB, 0xBC]
  | .res7L => [0xCB, 0xBD]
  | .res7AtHl => [0xCB, 0xBE]
  | .res7A => [0xCB, 0xBF]
  | .set0B => [0xCB, 0xC0]
  | .set0C => [0xCB, 0xC1]
  | .set0D => [0xCB, 0xC2]
  | .set0E => [0xCB, 0xC3]
  | .set0H => [0xCB, 0xC4]
  | .set0L => [0xCB, 0xC5]
  | .set0AtHl => [0xCB, 0xC6]
  | .set0A => [0xCB, 0xC7]
  | .set1B => [0xCB, 0xC8]
  | .set1C => [0xCB, 0xC9]
  | .set1D => [0xCB, 0xCA]
  | .set1E => [0xCB, 0xCB]
  | .set1H => [0xCB, 0xCC]
  | .set1L => [0xCB, 0xCD]
  | .set1AtHl => [0xCB, 0xCE]
  | .set1A => [0xCB, 0xCF]
  | .set2B => [0xCB, 0xD0]
  | .set2C => [0xCB, 0xD1]
  | .set2D => [0xCB, 0xD2]
  | .set2E => [0xCB, 0xD3]
  | .set2H => [0xCB, 0xD4]
  | .set2L => [0xCB, 0xD5]
  | .set2AtHl => [0xCB, 0xD6]
  | .set2A => [0xCB, 0xD7]
  | .set3B => [0xCB, 0xD8]
  | .set3C => [0xCB, 0xD9]
  | .set3D => [0xCB, 0xDA]
  | .set3E => [0xCB, 0xDB]
  | .set3H => [0xCB, 0xDC]
  | .set3L => [0xCB, 0xDD]
  | .set3AtHl => [0xCB, 0xDE]
  | .set3A => [0xCB, 0xDF]
  | .set4B => [0xCB, 0xE0]
  | .set4C => [0xCB, 0xE1]
  | .set4D => [0xCB, 0xE2]
  | .set4E => [0xCB, 0xE3]
  | .set4H => [0xCB, 0xE4]
  | .set4L => [0xCB, 0xE5]
  | .set4AtHl => [0xCB, 0xE6]
  | .set4A => [0xCB, 0xE7]
  | .set5B => [0xCB, 0xE8]
  | .set5C => [0xCB, 0xE9]
  | .set5D => [0xCB, 0xEA]
  | .set5E => [0xCB, 0xEB]
  | .set5H => [0xCB, 0xEC]
  | .set5L => [0xCB, 0xED]
  | .set5AtHl => [0xCB, 0xEE]
  | .set5A => [0xCB, 0xEF]
  | .set6B => [0xCB, 0xF0]
  | .set6C => [0xCB, 0xF1]
  | .set6D => [0xCB, 0xF2]
  | .set6E => [0xCB, 0xF3]
  | .set6H => [0xCB, 0xF4]
  | .set6L => [0xCB, 0xF5]
  | .set6AtHl => [0xCB, 0xF6]
  | .set6A => [0xCB, 0xF7]
  | .set7B => [0xCB, 0xF8]
  | .set7C => [0xCB, 0xF9]
  | .set7D => [0xCB, 0xFA]
  | .set7E => [0xCB, 0xFB]
  | .set7H => [0xCB, 0xFC]
  | .set7L => [0xCB, 0xFD]
  | .set7AtHl => [0xCB, 0xFE]
  | .set7A => [0xCB, 0xFF]

end Sys2Proof
end

