-- ==== Sys2Proof/Config.lean ====
section
/-! DEFINITION. The implementation parameters of 00_scope.md R10 that a machine carries, and the free value of the external Memory Bus. -/
namespace Sys2Proof

/-- The hardware variant (00_scope.md R3): the CGB has the HDMA engine, the DMG has not. -/
inductive Variant where
  | dmg
  | cgb
deriving DecidableEq, Repr

/-- One entry of an explicit `cycleCost` (00_scope.md R10): the cost in T-cycles of one opcode byte of the
base table or of the 0xCB table, taken or not. -/
structure CostEntry where
  /-- true: a row of the 0xCB table; false: a row of the base table. -/
  cb     : Bool
  op     : Byte
  taken  : Bool
  cycles : Nat
deriving DecidableEq, Repr

/-- The parameters of a machine (00_scope.md R10). They never change as the machine runs. -/
structure Config where
  variant           : Variant
  /-- Whether STOP clears the divider (46_system.md R188, 92_eei_decisions.md D13). -/
  stopResetsDivider : Bool
  /-- Entries that replace the default cycle costs of 70_reset_and_hazards.md R291; none by default. -/
  costs             : List CostEntry
deriving DecidableEq, Repr

/-- The configuration of a variant with the defaults of 00_scope.md R10. -/
def Config.defaults (variant : Variant) : Config := { variant := variant, stopResetsDivider := true, costs := [] }

/-- FREE VALUE. The byte that the `n`-th read of an external bus address returns (20_memory.md R58: "a `BusRead`
returns a byte the model does not constrain"). It has no body: no proof can use a particular byte. Log 5. -/
opaque Config.busOracle : Nat → Word → Byte

end Sys2Proof
end

