-- ==== Sys2Proof/Machine/State.lean ====
section
/-! DEFINITION. The state of the machine: every piece of state of 10_state.md, the external bus, the parameters and the host's script, as plain data; faults; and the state right after reset. -/
namespace Sys2Proof.Machine

/-- The Processor's run state (10_state.md R27). -/
inductive RunState where
  | running
  | halted
  | stopped
deriving DecidableEq, Repr

/-- `dispatchStage` of 10_state.md R30: `idle` is 0, `m1` to `m5` are 1 to 5, the M-cycle of the dispatch that the next
step performs. -/
inductive DispatchStage where
  | idle
  | m1
  | m2
  | m3
  | m4
  | m5
deriving DecidableEq, Repr

/-- The five interrupt sources, IF and IE bits 0 to 4 in this order (60_exceptions.md R214). -/
inductive IntSource where
  | vblank
  | lcdStat
  | timer
  | serial
  | joypad
deriving DecidableEq, Repr

/-- The fault kinds of 60_exceptions.md R203, with their information. A fault is recorded in `State.fault`; the machine then
stays where it is for good. Safe: nothing is proved of the chip past a fault (92_eei_decisions.md D7, D29). Log 7. -/
inductive Fault where
  /-- Raised by the meanings of the eleven unassigned base opcodes (46_system.md R192), and by nothing else. Safe. -/
  | illegalOpcode (addr : Word) (op : Byte)
  /-- Raised by `requestInterrupt` with a bit outside 0 to 4 (60_exceptions.md R216), a host error. Safe. -/
  | badInterruptBit (k : Nat)
deriving DecidableEq, Repr

/-- Why a step may have no meaning. No instruction of this model is refused. -/
inductive Refusal where
  /-- Raised by `exec` for an instruction without a meaning yet; no arm is left that raises it. Safe. -/
  | notModelled (mnemonic : String)
  /-- Raised by a step whose fetched bytes the decoder rejects; a step fetches as many bytes as the first one asks for, so
  no state reaches it. Safe. -/
  | undecodedFetch
deriving DecidableEq, Repr

/-- The timer's reload state machine (10_state.md R45, 60_exceptions.md R240). -/
inductive TimerState where
  | normal
  | overflowDelay
  | reloadActive
deriving DecidableEq, Repr

/-- The timer (10_state.md R33 to R36, R45). -/
structure Timer where
  /-- The free-running divider; DIV is its upper byte. -/
  divider       : BitVec 16
  tima          : Byte
  tma           : Byte
  /-- TAC bits 2:0: bit 2 enable, bits 1:0 clock select. -/
  tac           : BitVec 3
  tstate        : TimerState
  countdown     : Nat
  reloadPending : Bool
deriving DecidableEq, Repr

/-- The OAM-DMA engine (10_state.md R39, R46). -/
structure OamDma where
  /-- `dmaActive`. -/
  active    : Bool
  /-- `dmaSource`, the source page. -/
  source    : Byte
  /-- `dmaCount`, bytes transferred. -/
  count     : Nat
  /-- `dmaStartup`, T-cycles of startup left. -/
  startup   : Nat
  /-- `dmaSub`, T-cycles into the current byte slot. -/
  sub       : Nat
  /-- `dmaRestarted`, the lock persists through this startup. -/
  restarted : Bool
  /-- `dmaReg`, what a read of 0xFF46 returns. -/
  reg       : Byte
deriving DecidableEq, Repr

/-- `hdmaMode` (10_state.md R47). -/
inductive HdmaMode where
  | general
  | hblank
deriving DecidableEq, Repr

/-- The HDMA engine (10_state.md R40 to R44, R47). -/
structure Hdma where
  /-- `hdmaSrc`. -/
  src       : BitVec 16
  /-- `hdmaDst`, the offset within VRAM. -/
  dst       : BitVec 13
  /-- `hdmaActive`. -/
  active    : Bool
  mode      : HdmaMode
  /-- `hdmaRemaining`, blocks left. -/
  remaining : Nat
  /-- `hdmaStopped`. -/
  stopped   : Bool
deriving DecidableEq, Repr

/-- The contents of the external bus, as (address, byte) pairs in one canonical form (`Memory.wf`). -/
abbrev Memory := List Host.Cell

/-- What an address that is not listed reads as. DESIGN CHOICE, unsafe, log 4: the spec takes the bus contents as a launch
premise (20_memory.md R58), and its worked examples read untouched plain memory as 0x00. -/
def Memory.blank : Byte := 0x00

/-- How the external bus answers at an address (20_memory.md R58, R60). -/
inductive BusKind where
  /-- Plain memory: returns the last byte written. -/
  | plain
  /-- Unmapped or disabled: reads 0xFF, ignores writes. -/
  | unmapped
  /-- A unit the core does not model: reads return any byte, writes go to the unit. -/
  | external
deriving DecidableEq, Repr

/-- A run of `size` bus addresses from `base`, all of one kind. -/
structure BusRegion where
  base : Nat
  size : Nat
  kind : BusKind
deriving DecidableEq, Repr

/-- The external Memory Bus (20_memory.md R58). -/
structure Bus where
  mem   : Memory
  /-- The first region that holds an address gives its kind; an address in none is plain. -/
  map   : List BusRegion
  /-- How many reads of external addresses there have been: the index of the free value `Config.busOracle`. Log 5. -/
  reads : Nat
deriving DecidableEq, Repr

/-- What the host may do between two steps (60_exceptions.md R276). -/
inductive HostAction where
  | requestInterrupt (k : Nat)
  | hblankBlock
  /-- A change of one byte of the bus contents. -/
  | setBusByte (addr : Word) (v : Byte)
  /-- A change of which bus addresses are mapped (bank switching, a unit enabled or disabled). -/
  | remapBus (map : List BusRegion)
deriving DecidableEq, Repr

/-- The state of the machine. -/
structure State where
  a : Byte
  /-- F (10_state.md R23); read and written through `State.flags` and `State.setFlags`. -/
  f : Byte
  b : Byte
  c : Byte
  d : Byte
  e : Byte
  h : Byte
  l : Byte
  sp : Word
  pc : Word
  runState : RunState
  ime : Bool
  eiPending : Bool
  haltBug : Bool
  dispatchStage : DispatchStage
  dispatchBit : Option IntSource
  fault : Option Fault
  /-- IE at 0xFFFF (10_state.md R38). -/
  ie : Byte
  /-- IF at 0xFF0F, the five stored bits (10_state.md R37). -/
  ifl : BitVec 5
  timer : Timer
  dma : OamDma
  hdma : Hdma
  bus : Bus
  /-- The local `opAddr` of 60_exceptions.md R201: the address the current instruction's opcode was read from. The model's
  own field, log 14. -/
  opAddr : Word
  /-- The parameters of 00_scope.md R10; never written by a step. The model's own field, log 1, 11, 12. -/
  cfg : Config
  /-- The host's moves, one list of actions a step, the next first. The model's own field, log 6. -/
  hostScript : List (List HostAction)
deriving DecidableEq, Repr

/-- What `resetState(variant)` of 00_scope.md R10 gives: the register file (10_state.md R26), the control values (R27, R28,
92_eei_decisions.md D30) and the memory-mapped registers (R34 to R39, 92_eei_decisions.md D41) at reset. The divider is a
parameter of its own. -/
structure ResetState where
  a : Byte
  f : Byte
  b : Byte
  c : Byte
  d : Byte
  e : Byte
  h : Byte
  l : Byte
  sp : Word
  pc : Word
  runState : RunState
  ime : Bool
  eiPending : Bool
  ie : Byte
  /-- The five stored bits of IF. -/
  ifl : BitVec 5
  tima : Byte
  tma : Byte
  tac : BitVec 3
  /-- What 0xFF46 reads: `dmaReg` and `dmaSource`. -/
  dma : Byte
deriving DecidableEq, Repr

/-- The default of the parameter `resetState(variant)` (10_state.md R26, R27, R28, R34 to R39). -/
def ResetState.defaults (variant : Variant) : ResetState :=
  match variant with
  | .dmg => { a := 0x01, f := 0xB0, b := 0x00, c := 0x13, d := 0x00, e := 0xD8, h := 0x01, l := 0x4D, sp := 0xFFFE, pc := 0x0100,
              runState := .running, ime := false, eiPending := false, ie := 0x00, ifl := 0b00001, tima := 0x00, tma := 0x00,
              tac := 0, dma := 0xFF }
  | .cgb => { a := 0x11, f := 0x80, b := 0x00, c := 0x00, d := 0xFF, e := 0x56, h := 0x00, l := 0x0D, sp := 0xFFFE, pc := 0x0100,
              runState := .running, ime := false, eiPending := false, ie := 0x00, ifl := 0b00001, tima := 0x00, tma := 0x00,
              tac := 0, dma := 0x00 }

/-- The external Memory Bus under the launch premise of plain memory (20_memory.md R58), with nothing listed. Log 4, 5. -/
def Bus.plain : Bus := { mem := [], map := [], reads := 0 }

/-- The reset state (70_reset_and_hazards.md R280) of a machine with the parameters of 00_scope.md R10: the configuration
(`variant`, `cycleCost`, `stopResetsDivider`), `resetState`, `divReset` and the `Bus`; and every value of the HDMA
addresses, which the spec leaves unspecified (10_state.md R47). F takes its value through the mask (10_state.md R24), and so do
the two addresses, whose bits 3:0 are always 0 (R47). -/
def State.resetWith (cfg : Config) (resetState : Variant → ResetState) (divReset : BitVec 16) (hdmaSrc : BitVec 16)
    (hdmaDst : BitVec 13) (bus : Bus) : State where
  a := (resetState cfg.variant).a
  f := (resetState cfg.variant).f &&& 0xF0
  b := (resetState cfg.variant).b
  c := (resetState cfg.variant).c
  d := (resetState cfg.variant).d
  e := (resetState cfg.variant).e
  h := (resetState cfg.variant).h
  l := (resetState cfg.variant).l
  sp := (resetState cfg.variant).sp
  pc := (resetState cfg.variant).pc
  runState := (resetState cfg.variant).runState
  ime := (resetState cfg.variant).ime
  eiPending := (resetState cfg.variant).eiPending
  haltBug := false
  dispatchStage := .idle
  dispatchBit := none
  fault := none
  ie := (resetState cfg.variant).ie
  ifl := (resetState cfg.variant).ifl
  timer := { divider := divReset, tima := (resetState cfg.variant).tima, tma := (resetState cfg.variant).tma,
             tac := (resetState cfg.variant).tac, tstate := .normal, countdown := 0, reloadPending := false }
  dma := { active := false, source := (resetState cfg.variant).dma, count := 0, startup := 0, sub := 0, restarted := false,
           reg := (resetState cfg.variant).dma }
  hdma := { src := hdmaSrc &&& 0xFFF0, dst := hdmaDst &&& 0x1FF0, active := false, mode := .general, remaining := 0, stopped := false }
  bus := bus
  opAddr := (resetState cfg.variant).pc
  cfg := cfg
  hostScript := []

/-- The machine right after reset: the DMG (log 1) with the default parameters, the divider and the HDMA addresses at zero
(log 2, 3: DESIGN CHOICE, the spec gives none), an empty plain bus (log 4, 5) and a host that does nothing (log 6). -/
def State.reset : State := State.resetWith (Config.defaults .dmg) ResetState.defaults 0 0 0 Bus.plain

/-- What an instruction or a step answers. -/
abbrev Result := Host.Outcome State Fault Refusal

end Sys2Proof.Machine
end

