-- ==== Sys2Proof/Machine/Operands.lean ====
section
/-! DEFINITION. Operand forms: bytes of a word, registers, register pairs, the flags register as a whole, conditions and offsets. -/
namespace Sys2Proof.Machine

/-- Bits 7:0 of a word. -/
def loByte (w : Word) : Byte := w.extractLsb' 0 8

/-- Bits 15:8 of a word. -/
def hiByte (w : Word) : Byte := w.extractLsb' 8 8

/-- `hi : lo` (00_scope.md R11). -/
def mkWord (hi lo : Byte) : Word := hi ++ lo

/-- `sext_16` (00_scope.md R11). -/
def sext16 (v : Byte) : Word := v.signExtend 16

/-- The high-page address `0xFF00 + n` (30_encoding.md R79). -/
def highPage (n : Byte) : Word := 0xFF00 + n.zeroExtend 16

/-- F as it reads: the low nibble is 0 (10_state.md R23). -/
def State.flags (s : State) : Byte := s.f &&& 0xF0

/-- Every write of F stores `v & 0xF0` (10_state.md R24). -/
def State.setFlags (v : Byte) (s : State) : State := { s with f := v &&& 0xF0 }

/-- `R[X]` for a register an r field names (00_scope.md R12, 30_encoding.md R73). -/
def State.getReg (s : State) : Reg8 → Byte
  | .b => s.b | .c => s.c | .d => s.d | .e => s.e | .h => s.h | .l => s.l | .a => s.a

/-- `R[X] <- v` (00_scope.md R12). -/
def State.setReg (r : Reg8) (v : Byte) (s : State) : State :=
  match r with
  | .b => { s with b := v } | .c => { s with c := v } | .d => { s with d := v } | .e => { s with e := v }
  | .h => { s with h := v } | .l => { s with l := v } | .a => { s with a := v }

/-- `RP[HL]` (10_state.md R21). -/
def State.hl (s : State) : Word := mkWord s.h s.l

/-- `RP[HL] <- v` (10_state.md R21). -/
def State.setHl (v : Word) (s : State) : State := { s with h := hiByte v, l := loByte v }

/-- `rp[p]` as it reads (30_encoding.md R75, 10_state.md R21, R22). -/
def State.getPair (s : State) : Reg16 → Word
  | .bc => mkWord s.b s.c | .de => mkWord s.d s.e | .hl => s.hl | .sp => s.sp

/-- Writing `rp[p]` (30_encoding.md R75, 10_state.md R21, R22). -/
def State.setPair (p : Reg16) (v : Word) (s : State) : State :=
  match p with
  | .bc => { s with b := hiByte v, c := loByte v }
  | .de => { s with d := hiByte v, e := loByte v }
  | .hl => s.setHl v
  | .sp => { s with sp := v }

/-- `rp2[p]` as it reads (30_encoding.md R75, 10_state.md R21): AF is A : F. -/
def State.getStackReg (s : State) : StackReg → Word
  | .bc => mkWord s.b s.c | .de => mkWord s.d s.e | .hl => s.hl | .af => mkWord s.a s.flags

/-- Writing `rp2[p]` (30_encoding.md R75, 10_state.md R21): the F half of AF is masked (R24). -/
def State.setStackReg (p : StackReg) (v : Word) (s : State) : State :=
  match p with
  | .bc => { s with b := hiByte v, c := loByte v }
  | .de => { s with d := hiByte v, e := loByte v }
  | .hl => s.setHl v
  | .af => State.setFlags (loByte v) { s with a := hiByte v }

end Sys2Proof.Machine
end

