-- ==== Sys2Proof/Machine/Flags.lean ====
section
/-! DEFINITION. The flags and every flag computation: conditions, 8-bit and 16-bit arithmetic, logic, DAA, rotates and shifts, bit tests. Each computation answers the result and the new F. -/
namespace Sys2Proof.Machine

/-- F from its four flags: Z bit 7, N bit 6, H bit 5, C bit 4, the low nibble 0 (10_state.md R23). -/
def packFlags (z n h c : Bool) : Byte :=
  BitVec.ofBool z ++ BitVec.ofBool n ++ BitVec.ofBool h ++ BitVec.ofBool c ++ 0#4

/-- F.Z (10_state.md R23). -/
def State.flagZ (s : State) : Bool := s.f.getLsbD 7
/-- F.N (10_state.md R23). -/
def State.flagN (s : State) : Bool := s.f.getLsbD 6
/-- F.H (10_state.md R23). -/
def State.flagH (s : State) : Bool := s.f.getLsbD 5
/-- F.C (10_state.md R23). -/
def State.flagC (s : State) : Bool := s.f.getLsbD 4

/-- Writing the four flags. -/
def State.putFlags (z n h c : Bool) (s : State) : State := s.setFlags (packFlags z n h c)

/-- Condition evaluation (45_control.md R170). -/
def State.cond (s : State) : Cond → Bool
  | .nz => !s.flagZ
  | .z => s.flagZ
  | .nc => !s.flagC
  | .c => s.flagC

/-- The low nibble of a byte as a number. -/
def lowNibble (v : Byte) : Nat := (v &&& 0x0F).toNat

/-- `A + s + c` with its flags (42_alu8.md R121 with c = 0, R122). -/
def addFlags (a s : Byte) (c : Bool) : Byte × Byte :=
  let res := a.toNat + s.toNat + c.toNat
  let r := BitVec.ofNat 8 res
  (r, packFlags (r == 0) false (decide (lowNibble a + lowNibble s + c.toNat > 0x0F)) (decide (res > 0xFF)))

/-- `A - s - c` with its flags (42_alu8.md R123 with c = 0, R124). -/
def subFlags (a s : Byte) (c : Bool) : Byte × Byte :=
  let r := a - s - BitVec.ofNat 8 c.toNat
  (r, packFlags (r == 0) true (decide (lowNibble a < lowNibble s + c.toNat)) (decide (a.toNat < s.toNat + c.toNat)))

/-- The flags of AND, XOR and OR (42_alu8.md R125, R126, R127): Z from the result, H as given, N and C zero. -/
def logicFlags (r : Byte) (h : Bool) : Byte × Byte := (r, packFlags (r == 0) false h false)

/-- `alu[y]` on A and s, with the carry flag before: the new A and the new F (42_alu8.md R121 to R128). CP leaves A. -/
def aluResult (op : AluOp) (a s : Byte) (c : Bool) : Byte × Byte :=
  match op with
  | .add => addFlags a s false
  | .adc => addFlags a s c
  | .sub => subFlags a s false
  | .sbc => subFlags a s c
  | .and => logicFlags (a &&& s) true
  | .xor => logicFlags (a ^^^ s) false
  | .or => logicFlags (a ||| s) false
  | .cp => (a, (subFlags a s false).2)

/-- 8-bit increment, C kept (42_alu8.md R129, R130). -/
def incResult (old : Byte) (c : Bool) : Byte × Byte :=
  (old + 1, packFlags (old + 1 == 0) false (lowNibble old == 0x0F) c)

/-- 8-bit decrement, C kept (42_alu8.md R131, R132). -/
def decResult (old : Byte) (c : Bool) : Byte × Byte :=
  (old - 1, packFlags (old - 1 == 0) true (lowNibble old == 0x00) c)

/-- The high half of DAA's adjustment and the new carry (42_alu8.md R133). -/
def daaCarry (a : Byte) (n c : Bool) : Bool :=
  if n then c else c || decide (a.toNat > 0x99)

/-- DAA (42_alu8.md R133): the adjusted A and the new F. -/
def daaResult (a : Byte) (n h c : Bool) : Byte × Byte :=
  let r :=
    if n then
      let a1 := if c then a - 0x60 else a
      if h then a1 - 0x06 else a1
    else
      let a1 := if daaCarry a n c then a + 0x60 else a
      if h || decide (lowNibble a1 > 0x09) then a1 + 0x06 else a1
  (r, packFlags (r == 0) n false (daaCarry a n c))

/-- `h + v` of ADD HL,rr with its flags, Z kept (43_alu16.md R140). -/
def addHlResult (h v : Word) (z : Bool) : Word × Byte :=
  (h + v, packFlags z false (decide ((h &&& 0x0FFF).toNat + (v &&& 0x0FFF).toNat > 0x0FFF))
    (decide (h.toNat + v.toNat > 0xFFFF)))

/-- `SP + e` of ADD SP,e and LD HL,SP+e: the sum is signed, the flags are those of the unsigned low-byte addition
(41_load16.md R115, 43_alu16.md R143). -/
def addSpResult (sp : Word) (e : Byte) : Word × Byte :=
  (sp + sext16 e, packFlags false false (decide (lowNibble (loByte sp) + lowNibble e > 0x0F))
    (decide ((loByte sp).toNat + e.toNat > 0xFF)))

/-- The result of a rotate, shift or SWAP and the bit it moves out, with the carry flag before (44_rotate_shift_bit.md R150
to R162). -/
def rotResult (op : RotOp) (v : Byte) (c : Bool) : Byte × Bool :=
  match op with
  | .rlc => ((v <<< 1) ||| BitVec.ofNat 8 (v.getLsbD 7).toNat, v.getLsbD 7)
  | .rrc => ((v >>> 1) ||| (BitVec.ofNat 8 (v.getLsbD 0).toNat <<< 7), v.getLsbD 0)
  | .rl => ((v <<< 1) ||| BitVec.ofNat 8 c.toNat, v.getLsbD 7)
  | .rr => ((v >>> 1) ||| (BitVec.ofNat 8 c.toNat <<< 7), v.getLsbD 0)
  | .sla => (v <<< 1, v.getLsbD 7)
  | .sra => ((v >>> 1) ||| (v &&& 0x80), v.getLsbD 0)
  | .swap => ((v <<< 4) ||| (v >>> 4), false)
  | .srl => (v >>> 1, v.getLsbD 0)

end Sys2Proof.Machine
end

