-- ==== Sys2Proof/Machine/Cycles.lean ====
section
/-! DEFINITION. `cycleCost` (00_scope.md R10): the defaults of 70_reset_and_hazards.md R291, and the entries of `Config.costs` that replace them. -/
namespace Sys2Proof.Machine

/-- The table of 70_reset_and_hazards.md R291 by high nibble (row) and low nibble (column): the taken cost. An unassigned
byte and the prefix 0xCB have no cost of their own and stand as 0. -/
def baseCycleRows : List (List Nat) := [
  [ 4, 12,  8,  8,  4,  4,  8,  4, 20,  8,  8,  8,  4,  4,  8,  4],
  [ 4, 12,  8,  8,  4,  4,  8,  4, 12,  8,  8,  8,  4,  4,  8,  4],
  [12, 12,  8,  8,  4,  4,  8,  4, 12,  8,  8,  8,  4,  4,  8,  4],
  [12, 12,  8,  8, 12, 12, 12,  4, 12,  8,  8,  8,  4,  4,  8,  4],
  [ 4,  4,  4,  4,  4,  4,  8,  4,  4,  4,  4,  4,  4,  4,  8,  4],
  [ 4,  4,  4,  4,  4,  4,  8,  4,  4,  4,  4,  4,  4,  4,  8,  4],
  [ 4,  4,  4,  4,  4,  4,  8,  4,  4,  4,  4,  4,  4,  4,  8,  4],
  [ 8,  8,  8,  8,  8,  8,  4,  8,  4,  4,  4,  4,  4,  4,  8,  4],
  [ 4,  4,  4,  4,  4,  4,  8,  4,  4,  4,  4,  4,  4,  4,  8,  4],
  [ 4,  4,  4,  4,  4,  4,  8,  4,  4,  4,  4,  4,  4,  4,  8,  4],
  [ 4,  4,  4,  4,  4,  4,  8,  4,  4,  4,  4,  4,  4,  4,  8,  4],
  [ 4,  4,  4,  4,  4,  4,  8,  4,  4,  4,  4,  4,  4,  4,  8,  4],
  [20, 12, 16, 16, 24, 16,  8, 16, 20, 16, 16,  0, 24, 24,  8, 16],
  [20, 12, 16,  0, 24, 16,  8, 16, 20, 16, 16,  0, 24,  0,  8, 16],
  [12, 12,  8,  0,  0, 16,  8, 16, 16,  4, 16,  0,  0,  0,  8, 16],
  [12, 12,  8,  4,  0, 16,  8, 16, 12,  8, 16,  4,  0,  0,  8, 16]]

/-- The not-taken costs of the same table (70_reset_and_hazards.md R291). -/
def notTakenCycles : List (Byte × Nat) := [
  (0x20, 8), (0x28, 8), (0x30, 8), (0x38, 8), (0xC0, 8), (0xC8, 8), (0xD0, 8), (0xD8, 8),
  (0xC2, 12), (0xCA, 12), (0xD2, 12), (0xDA, 12), (0xC4, 12), (0xCC, 12), (0xD4, 12), (0xDC, 12)]

/-- The taken cost of a base opcode. -/
def takenCycles (op : Byte) : Nat := (baseCycleRows.getD (op.toNat / 16) []).getD (op.toNat % 16) 0

/-- The default cost of a base opcode (70_reset_and_hazards.md R291). -/
def baseCycles (op : Byte) (taken : Bool) : Nat :=
  if taken then takenCycles op
  else
    match notTakenCycles.find? (fun row => row.1 == op) with
    | some row => row.2
    | none => takenCycles op

/-- The default cost of a row of the 0xCB table: 8 for a register, 16 for (HL), 12 for `BIT b,(HL)`
(70_reset_and_hazards.md R291, 44_rotate_shift_bit.md R154). -/
def cbCycles (op2 : Byte) : Nat :=
  if fieldZ op2 = 6 then (if fieldX op2 = 1 then 12 else 16) else 8

/-- `cycleCost(op, taken)` of a machine: the default, unless `Config.costs` names the opcode. Log 11. -/
def opcodeCost (cfg : Config) (cb : Bool) (op : Byte) (taken : Bool) : Nat :=
  match cfg.costs.find? (fun e => e.cb == cb && e.op == op && e.taken == taken) with
  | some e => e.cycles
  | none => if cb then cbCycles op else baseCycles op taken

/-- The cost of an instruction (60_exceptions.md R201): that of its opcode byte, or of the second byte after 0xCB. -/
def instrCost (cfg : Config) (i : Instr) (taken : Bool) : Nat :=
  match encode i with
  | [] => 0
  | op :: rest => if op = prefixByte then opcodeCost cfg true (rest.headD 0) true else opcodeCost cfg false op taken

/-- The condition of a conditional transfer. -/
def condition : Instr → Option Cond
  | .jpNzNn _ => some .nz | .jpZNn _ => some .z | .jpNcNn _ => some .nc | .jpCNn _ => some .c
  | .jrNzE _ => some .nz | .jrZE _ => some .z | .jrNcE _ => some .nc | .jrCE _ => some .c
  | .callNzNn _ => some .nz | .callZNn _ => some .z | .callNcNn _ => some .nc | .callCNn _ => some .c
  | .retNz => some .nz | .retZ => some .z | .retNc => some .nc | .retC => some .c
  | _ => none

/-- Whether a conditional transfer is taken (60_exceptions.md R201); every other instruction has one cost. -/
def State.taken (s : State) (i : Instr) : Bool :=
  match condition i with
  | some cc => s.cond cc
  | none => true

end Sys2Proof.Machine
end

