-- ==== Sys2Proof/Machine/Memory.lean ====
section
/-! DEFINITION. Reading and writing the bus contents, and their canonical form. -/
namespace Sys2Proof.Machine

/-- The byte at an address. -/
def Memory.read (m : Memory) (addr : Nat) : Byte :=
  match m with
  | [] => Memory.blank
  | (k, v) :: rest => if k = addr then v else Memory.read rest addr

/-- The contents with every entry of an address taken out. -/
def Memory.erase (m : Memory) (addr : Nat) : Memory :=
  m.filter (fun cell => cell.1 != addr)

/-- The contents with an entry put in its place by address. -/
def Memory.insert (m : Memory) (addr : Nat) (v : Byte) : Memory :=
  match m with
  | [] => [(addr, v)]
  | (k, w) :: rest => if addr < k then (addr, v) :: (k, w) :: rest else (k, w) :: Memory.insert rest addr v

/-- Writing a byte; writing `Memory.blank` removes the entry, so that equal memories are equal lists. -/
def Memory.write (m : Memory) (addr : Nat) (v : Byte) : Memory :=
  if v = Memory.blank then m.erase addr else (m.erase addr).insert addr v

/-- The canonical form: addresses strictly rising from `lo` on and below 65,536 (20_memory.md R50), no entry equal to
`Memory.blank`. -/
def Memory.wfFrom (lo : Nat) (m : Memory) : Bool :=
  match m with
  | [] => true
  | (k, v) :: rest => decide (lo ≤ k) && decide (k < 65536) && (v != Memory.blank) && Memory.wfFrom (k + 1) rest

/-- The canonical form of the bus contents. -/
def Memory.wf (m : Memory) : Bool := Memory.wfFrom 0 m

end Sys2Proof.Machine
end

