-- ==== Sys2Proof/Machine/Bus.lean ====
section
/-! DEFINITION. The external Memory Bus (20_memory.md R58): read, write, and the peek of debug tools. -/
namespace Sys2Proof.Machine

/-- Whether a region holds a bus address. -/
def BusRegion.holds (r : BusRegion) (addr : Word) : Bool :=
  decide (r.base ≤ addr.toNat) && decide (addr.toNat < r.base + r.size)

/-- The kind of a bus address: that of the first region that holds it, else plain memory. -/
def busKindAt (map : List BusRegion) (addr : Word) : BusKind :=
  match map with
  | [] => .plain
  | r :: rest => if r.holds addr then r.kind else busKindAt rest addr

/-- How the bus answers at an address. -/
def State.busKind (s : State) (addr : Word) : BusKind := busKindAt s.bus.map addr

/-- The byte `BusRead` returns (20_memory.md R58): of plain memory the last byte written, of an unmapped address 0xFF (R60),
of an external one a free value. -/
def State.busByte (s : State) (addr : Word) : Byte :=
  match s.busKind addr with
  | .plain => s.bus.mem.read addr.toNat
  | .unmapped => 0xFF
  | .external => Config.busOracle s.bus.reads addr

/-- The state after `BusRead`: a read of an external address takes the next free value; no other read changes anything. -/
def State.afterBusRead (s : State) (addr : Word) : State :=
  match s.busKind addr with
  | .external => { s with bus := { s.bus with reads := s.bus.reads + 1 } }
  | _ => s

/-- `BusWrite` (20_memory.md R58): plain memory stores the byte; an unmapped address drops it (R60); at an external address
it goes to the unit, of which the model keeps no state (its later reads are free values). -/
def State.busWrite (addr : Word) (v : Byte) (s : State) : State :=
  match s.busKind addr with
  | .plain => { s with bus := { s.bus with mem := s.bus.mem.write addr.toNat v } }
  | _ => s

end Sys2Proof.Machine
end

