-- ==== Sys2Proof/Machine/Timer.lean ====
section
/-! DEFINITION. The timer (60_exceptions.md section 6): the falling-edge detector, the reload state machine, the tick and the register writes. -/
namespace Sys2Proof.Machine

/-- The divider bit that TAC's clock select names: 9, 3, 5, 7 for 0 to 3 (60_exceptions.md R241). -/
def timerSelect (tac : BitVec 3) : Nat :=
  match (tac.extractLsb' 0 2).toFin with
  | (0 : Fin 4) => 9
  | (1 : Fin 4) => 3
  | (2 : Fin 4) => 5
  | (3 : Fin 4) => 7

/-- The edge detector's input: TAC's enable bit AND the selected divider bit (60_exceptions.md R241). -/
def timerSignal (divider : BitVec 16) (tac : BitVec 3) : Bool :=
  tac.getLsbD 2 && divider.getLsbD (timerSelect tac)

/-- `IncrementTima` (60_exceptions.md R243). -/
def Timer.incrementTima (t : Timer) : Timer :=
  match t.tstate with
  | .overflowDelay => t
  | _ =>
    if t.tima = 0xFF then { t with tima := 0x00, tstate := .overflowDelay, countdown := 4, reloadPending := true }
    else { t with tima := t.tima + 1 }

/-- Part 1 of `TimerTick` (60_exceptions.md R242): the countdown of the reload state machine, and whether it requests the
timer interrupt. -/
def Timer.reloadStep (t : Timer) : Timer × Bool :=
  match t.tstate with
  | .normal => (t, false)
  | .overflowDelay =>
    if t.countdown - 1 = 0 then
      ({ t with tima := t.tma, tstate := .reloadActive, countdown := 4, reloadPending := false }, true)
    else ({ t with countdown := t.countdown - 1 }, false)
  | .reloadActive =>
    if t.countdown - 1 = 0 then ({ t with tstate := .normal, countdown := 0 }, false)
    else ({ t with countdown := t.countdown - 1 }, false)

/-- Part 2 of `TimerTick` (60_exceptions.md R242): the divider advances, and a falling edge increments TIMA. -/
def Timer.dividerStep (t : Timer) : Timer :=
  if timerSignal t.divider t.tac && !timerSignal (t.divider + 1) t.tac then
    Timer.incrementTima { t with divider := t.divider + 1 }
  else { t with divider := t.divider + 1 }

/-- `TimerTick` (60_exceptions.md R242): the timer after one T-cycle, and whether it requests interrupt 2. -/
def Timer.tick (t : Timer) : Timer × Bool :=
  match t.reloadStep with
  | (t1, irq) => (t1.dividerStep, irq)

/-- `WriteDIV` (60_exceptions.md R244); the value written is discarded (10_state.md R33). -/
def Timer.writeDiv (t : Timer) : Timer :=
  if timerSignal t.divider t.tac then Timer.incrementTima { t with divider := 0 } else { t with divider := 0 }

/-- `WriteTIMA` (60_exceptions.md R245). -/
def Timer.writeTima (v : Byte) (t : Timer) : Timer :=
  match t.tstate with
  | .normal => { t with tima := v }
  | .overflowDelay => { t with tima := v, tstate := .normal, countdown := 0, reloadPending := false }
  | .reloadActive => t

/-- `WriteTMA` (60_exceptions.md R246). -/
def Timer.writeTma (v : Byte) (t : Timer) : Timer :=
  match t.tstate with
  | .reloadActive => { t with tma := v, tima := v }
  | _ => { t with tma := v }

/-- `WriteTAC` (60_exceptions.md R247): the divider does not change, the edge detector's input may fall. -/
def Timer.writeTac (v : Byte) (t : Timer) : Timer :=
  if timerSignal t.divider t.tac && !timerSignal t.divider (v.extractLsb' 0 3) then
    Timer.incrementTima { t with tac := v.extractLsb' 0 3 }
  else { t with tac := v.extractLsb' 0 3 }

end Sys2Proof.Machine
end

