-- ==== Sys2Proof/Machine/CoreRegs.lean ====
section
/-! DEFINITION. The core's memory-mapped registers (20_memory.md R57), the unlocked read, interrupt requests, and the DMA engines that a register write starts. -/
namespace Sys2Proof.Machine

/-- The memory-mapped registers of the core (10_state.md R32). -/
inductive CoreReg where
  | div | tima | tma | tac | ifReg | dma | hdma1 | hdma2 | hdma3 | hdma4 | hdma5 | ie
deriving DecidableEq, Repr

/-- Which core register an address is, if any (20_memory.md R57): the HDMA registers exist on the CGB only
(60_exceptions.md R270). -/
def coreRegAt (variant : Variant) (addr : Word) : Option CoreReg :=
  if addr = 0xFF04 then some .div
  else if addr = 0xFF05 then some .tima
  else if addr = 0xFF06 then some .tma
  else if addr = 0xFF07 then some .tac
  else if addr = 0xFF0F then some .ifReg
  else if addr = 0xFF46 then some .dma
  else if addr = 0xFFFF then some .ie
  else
    match variant with
    | .dmg => none
    | .cgb =>
      if addr = 0xFF51 then some .hdma1
      else if addr = 0xFF52 then some .hdma2
      else if addr = 0xFF53 then some .hdma3
      else if addr = 0xFF54 then some .hdma4
      else if addr = 0xFF55 then some .hdma5
      else none

/-- The core register at an address of this machine. -/
def State.coreReg (s : State) (addr : Word) : Option CoreReg := coreRegAt s.cfg.variant addr

/-- `HdmaStatus` (60_exceptions.md R266): bit 7 clear while active, bits 6:0 `(remaining - 1) mod 128`. -/
def Hdma.status (x : Hdma) : Byte :=
  (if x.active then 0x00 else 0x80) ||| BitVec.ofNat 8 ((x.remaining + 127) % 128)

/-- What a core register reads as (20_memory.md R57, 10_state.md R33 to R44). -/
def State.coreRegByte (s : State) : CoreReg → Byte
  | .div => s.timer.divider.extractLsb' 8 8
  | .tima => s.timer.tima
  | .tma => s.timer.tma
  | .tac => 0xF8 ||| s.timer.tac.zeroExtend 8
  | .ifReg => 0xE0 ||| s.ifl.zeroExtend 8
  | .dma => s.dma.reg
  | .hdma1 => 0xFF
  | .hdma2 => 0xFF
  | .hdma3 => 0xFF
  | .hdma4 => 0xFF
  | .hdma5 => s.hdma.status
  | .ie => s.ie

/-- The byte `CoreRead` returns (20_memory.md R57). -/
def State.coreByte (s : State) (addr : Word) : Byte :=
  match s.coreReg addr with
  | some r => s.coreRegByte r
  | none => s.busByte addr

/-- The state after `CoreRead`: no core-register read has a side effect (20_memory.md R59). -/
def State.afterCoreRead (s : State) (addr : Word) : State :=
  match s.coreReg addr with
  | some _ => s
  | none => s.afterBusRead addr

/-- The debug path (20_memory.md R61, 60_exceptions.md R277): the byte at an address, with no bus lock and no effect. At an
external address it is the byte the next read would return. -/
def State.peek (s : State) (addr : Word) : Byte := s.coreByte addr

/-- `requestInterrupt(k)` (60_exceptions.md R216). -/
def State.requestInterrupt (k : Nat) (s : State) : State :=
  if k ≤ 4 then { s with ifl := s.ifl ||| (1#5 <<< k) } else { s with fault := some (.badInterruptBit k) }

/-! ## OAM-DMA -/

/-- Whether the OAM-DMA engine locks the bus (60_exceptions.md R254, without the address). -/
def OamDma.locks (x : OamDma) : Bool := x.active && (x.startup == 0 || x.restarted)

/-- `WriteDMA` (60_exceptions.md R251). -/
def OamDma.start (v : Byte) (x : OamDma) : OamDma :=
  { active := true, source := v, count := 0, startup := 8, sub := 0, restarted := x.locks, reg := v }

/-- `OamWrite`, the injected write restricted to OAM, 0xFE00 to 0xFE9F (60_exceptions.md R255). Log 17. -/
def State.oamWrite (addr : Word) (v : Byte) (s : State) : State :=
  if 0xFE00 ≤ addr.toNat ∧ addr.toNat < 0xFEA0 then s.busWrite addr v else s

/-- The address of byte `i` of the page (60_exceptions.md R252, R255). -/
def oamSource (page : Byte) (i : Nat) : Word := (page ++ (0 : Byte)) + BitVec.ofNat 16 i

/-- The copy of byte `i` of an OAM-DMA (60_exceptions.md R252, R255): an unlocked read, then the write to OAM. -/
def State.oamCopy (i : Nat) (s : State) : State :=
  (s.afterCoreRead (oamSource s.dma.source i)).oamWrite (0xFE00 + BitVec.ofNat 16 i) (s.coreByte (oamSource s.dma.source i))

/-- `DmaTick` (60_exceptions.md R252). -/
def State.dmaTick (s : State) : State :=
  if s.dma.active = false then s
  else if s.dma.startup > 0 then
    { s with dma := { s.dma with startup := s.dma.startup - 1,
                                 restarted := s.dma.restarted && s.dma.startup - 1 != 0 } }
  else if s.dma.sub + 1 = 4 then
    let s1 := s.oamCopy s.dma.count
    { s1 with dma := { s1.dma with sub := 0, count := s1.dma.count + 1, active := s1.dma.count + 1 != 160 } }
  else { s with dma := { s.dma with sub := s.dma.sub + 1 } }

/-! ## HDMA -/

/-- `WriteHDMAaddr` (60_exceptions.md R263), with the masks of 10_state.md R40 to R43. -/
def Hdma.writeAddr (r : CoreReg) (v : Byte) (x : Hdma) : Hdma :=
  match r with
  | .hdma1 => { x with src := v ++ x.src.extractLsb' 0 8 }
  | .hdma2 => { x with src := x.src.extractLsb' 8 8 ++ (v &&& 0xF0) }
  | .hdma3 => { x with dst := v.extractLsb' 0 5 ++ x.dst.extractLsb' 0 8 }
  | .hdma4 => { x with dst := x.dst.extractLsb' 8 5 ++ (v &&& 0xF0) }
  | _ => x

/-- `VramWrite`, the injected write restricted to VRAM, 0x8000 to 0x9FFF (60_exceptions.md R267). Log 17. -/
def State.vramWrite (addr : Word) (v : Byte) (s : State) : State :=
  if 0x8000 ≤ addr.toNat ∧ addr.toNat < 0xA000 then s.busWrite addr v else s

/-- The source address of byte `i` of a block (60_exceptions.md R267). -/
def Hdma.srcAt (x : Hdma) (i : Nat) : Word := x.src + BitVec.ofNat 16 i

/-- The VRAM address of byte `i` of a block, wrapping within VRAM (60_exceptions.md R267). -/
def Hdma.dstAt (x : Hdma) (i : Nat) : Word := 0x8000 ||| (x.dst + BitVec.ofNat 13 i).zeroExtend 16

/-- The first `n` bytes of a block, in ascending order (60_exceptions.md R267). -/
def State.hdmaCopy (n : Nat) (s : State) : State :=
  match n with
  | 0 => s
  | i + 1 =>
    let s1 := State.hdmaCopy i s
    (s1.afterCoreRead (s1.hdma.srcAt i)).vramWrite (s1.hdma.dstAt i) (s1.coreByte (s1.hdma.srcAt i))

/-- `HdmaBlock` (60_exceptions.md R267). -/
def State.hdmaBlock (s : State) : State :=
  let s1 := s.hdmaCopy 16
  { s1 with hdma := { s1.hdma with src := s1.hdma.src + 16, dst := (s1.hdma.dst + 16) &&& 0x1FF0 } }

/-- A block and the count of one block less (60_exceptions.md R265, R268). -/
def State.hdmaStep (s : State) : State :=
  let s1 := s.hdmaBlock
  { s1 with hdma := { s1.hdma with remaining := s1.hdma.remaining - 1 } }

/-- `n` blocks, one after another (60_exceptions.md R265). -/
def State.hdmaBlocks (n : Nat) (s : State) : State :=
  match n with
  | 0 => s
  | k + 1 => State.hdmaBlocks k s.hdmaStep

/-- The number of blocks a write of `v` to HDMA5 asks for (10_state.md R44). -/
def hdmaBlockCount (v : Byte) : Nat := (v &&& 0x7F).toNat + 1

/-- `WriteHDMA5` (60_exceptions.md R265). -/
def State.writeHdma5 (v : Byte) (s : State) : State :=
  if s.hdma.active && s.hdma.mode == .hblank then
    if v.getLsbD 7 then s
    else { s with hdma := { s.hdma with active := false, stopped := true } }
  else if v.getLsbD 7 then
    { s with hdma := { s.hdma with remaining := hdmaBlockCount v, stopped := false, mode := .hblank, active := true } }
  else
    let s1 := { s with hdma := { s.hdma with remaining := hdmaBlockCount v, stopped := false, mode := .general } }
    let s2 := s1.hdmaBlocks (hdmaBlockCount v)
    { s2 with hdma := { s2.hdma with active := false } }

/-- The `hblankBlock` event (60_exceptions.md R268); on the DMG it does nothing (R270). -/
def State.hblankBlock (s : State) : State :=
  match s.cfg.variant with
  | .dmg => s
  | .cgb =>
    if s.hdma.active && s.hdma.mode == .hblank then
      let s1 := s.hdmaStep
      { s1 with hdma := { s1.hdma with active := s1.hdma.remaining != 0 } }
    else s

/-! ## Writes of core registers -/

/-- Writing a core register (20_memory.md R57). -/
def State.writeCoreReg (r : CoreReg) (v : Byte) (s : State) : State :=
  match r with
  | .div => { s with timer := s.timer.writeDiv }
  | .tima => { s with timer := s.timer.writeTima v }
  | .tma => { s with timer := s.timer.writeTma v }
  | .tac => { s with timer := s.timer.writeTac v }
  | .ifReg => { s with ifl := v.extractLsb' 0 5 }
  | .dma => { s with dma := s.dma.start v }
  | .hdma1 => { s with hdma := s.hdma.writeAddr .hdma1 v }
  | .hdma2 => { s with hdma := s.hdma.writeAddr .hdma2 v }
  | .hdma3 => { s with hdma := s.hdma.writeAddr .hdma3 v }
  | .hdma4 => { s with hdma := s.hdma.writeAddr .hdma4 v }
  | .hdma5 => s.writeHdma5 v
  | .ie => { s with ie := v }

/-- `CoreWrite` (20_memory.md R57). -/
def State.coreWrite (addr : Word) (v : Byte) (s : State) : State :=
  match s.coreReg addr with
  | some r => s.writeCoreReg r v
  | none => s.busWrite addr v

end Sys2Proof.Machine
end

