-- ==== Sys2Proof/Machine/Ops.lean ====
section
/-! DEFINITION. The shared operations of the Processor: its memory accesses, the stack, the fetch, taking an interrupt and returning from one. -/
namespace Sys2Proof.Machine

/-! ## Processor accesses -/

/-- `isBusLocked` (60_exceptions.md R254). -/
def State.busLocked (s : State) (addr : Word) : Bool := decide (addr.toNat < 0xFF00) && s.dma.locks

/-- The byte `MemRead(addr, 1)` returns (20_memory.md R55): 0xFF while the bus is locked. -/
def State.readByte (s : State) (addr : Word) : Byte :=
  if s.busLocked addr then 0xFF else s.coreByte addr

/-- The state after `MemRead(addr, 1)` (20_memory.md R55): a locked read has no effect. -/
def State.afterRead (s : State) (addr : Word) : State :=
  if s.busLocked addr then s else s.afterCoreRead addr

/-- `MemWrite(addr, 1, v)` (20_memory.md R55): a locked write is dropped. -/
def State.memWrite (addr : Word) (v : Byte) (s : State) : State :=
  if s.busLocked addr then s else s.coreWrite addr v

/-! ## 8-bit operands that may be the byte at HL -/

/-- The value of an 8-bit operand (30_encoding.md R73, 44_rotate_shift_bit.md R154). -/
def State.locByte (s : State) : Loc → Byte
  | .reg r => s.getReg r
  | .atHl => s.readByte s.hl

/-- The state after reading an 8-bit operand. -/
def State.afterLoc (s : State) : Loc → State
  | .reg _ => s
  | .atHl => s.afterRead s.hl

/-- Writing an 8-bit operand (30_encoding.md R73, 44_rotate_shift_bit.md R154). -/
def State.writeLoc (o : Loc) (v : Byte) (s : State) : State :=
  match o with
  | .reg r => s.setReg r v
  | .atHl => s.memWrite s.hl v

/-- The source operand of an accumulator instruction (42_alu8.md R120). -/
def State.sourceByte (s : State) : Source → Byte
  | .reg r => s.getReg r
  | .atHl => s.readByte s.hl
  | .imm n => n

/-- The state after reading the source operand. -/
def State.afterSource (s : State) : Source → State
  | .atHl => s.afterRead s.hl
  | _ => s

/-! ## Stack -/

/-- `push16` (00_scope.md R14): high byte to SP - 1, low byte to SP - 2. -/
def State.push16 (v : Word) (s : State) : State :=
  let s1 := State.memWrite (s.sp - 1) (hiByte v) { s with sp := s.sp - 1 }
  State.memWrite (s1.sp - 1) (loByte v) { s1 with sp := s1.sp - 1 }

/-- The word `pop16` returns (00_scope.md R14): low byte from SP, high byte from SP + 1. -/
def State.popWord (s : State) : Word :=
  mkWord ((s.afterRead s.sp).readByte (s.sp + 1)) (s.readByte s.sp)

/-- The state after `pop16` (00_scope.md R14). -/
def State.afterPop (s : State) : State :=
  { (s.afterRead s.sp).afterRead (s.sp + 1) with sp := s.sp + 2 }

/-! ## Fetch -/

/-- The opcode fetch of 60_exceptions.md R201: the byte at PC; a set halt-bug flag is consumed and keeps PC
(46_system.md R187). -/
def State.fetchOpcode (s : State) : Byte × State :=
  let s1 := s.afterRead s.pc
  (s.readByte s.pc,
    if s.haltBug then { s1 with haltBug := false, opAddr := s.pc } else { s1 with pc := s.pc + 1, opAddr := s.pc })

/-- `fetch8` (00_scope.md R14). -/
def State.fetch8 (s : State) : Byte × State :=
  (s.readByte s.pc, { s.afterRead s.pc with pc := s.pc + 1 })

/-- `n` bytes of the instruction stream, one `fetch8` after another. -/
def State.fetchBytes (n : Nat) (s : State) : List Byte × State :=
  match n with
  | 0 => ([], s)
  | k + 1 =>
    match s.fetch8 with
    | (v, s1) =>
      match State.fetchBytes k s1 with
      | (vs, s2) => (v :: vs, s2)

/-- The bytes of the next instruction and the state after fetching them: the first byte tells how many follow
(30_encoding.md R70, R71). Every rule fetches its operand bytes before anything else, so PC is past the whole
instruction when its meaning runs (log 15). -/
def State.fetchInstr (s : State) : List Byte × State :=
  match s.fetchOpcode with
  | (op, s1) =>
    match s1.fetchBytes (operandCount op) with
    | (vs, s2) => (op :: vs, s2)

/-! ## Interrupts: taking one, and returning from one -/

/-- `IE & IF & 0x1F` (60_exceptions.md R213). -/
def State.pending (s : State) : BitVec 5 := s.ie.extractLsb' 0 5 &&& s.ifl

/-- The bit of a source in IE and IF (60_exceptions.md R214). -/
def IntSource.bit : IntSource → Nat
  | .vblank => 0 | .lcdStat => 1 | .timer => 2 | .serial => 3 | .joypad => 4

/-- The vector of a source, `0x0040 + 8k` (60_exceptions.md R222). -/
def IntSource.vector (k : IntSource) : Word := 0x0040 + BitVec.ofNat 16 (8 * k.bit)

/-- The lowest-numbered source of a pending mask (60_exceptions.md R215). -/
def lowestPending (p : BitVec 5) : Option IntSource :=
  if p.getLsbD 0 then some .vblank
  else if p.getLsbD 1 then some .lcdStat
  else if p.getLsbD 2 then some .timer
  else if p.getLsbD 3 then some .serial
  else if p.getLsbD 4 then some .joypad
  else none

/-- TAKING AN INTERRUPT: `DispatchCycle` (60_exceptions.md R221), the M-cycle that `dispatchStage` names. It pushes PC high
byte first, selects the source at M4, and at M5 clears IME, `eiPending` and the source's IF bit and jumps to its vector, or
to 0x0000 when nothing was pending. -/
def State.dispatchCycle (s : State) : State :=
  match s.dispatchStage with
  | .idle => s
  | .m1 =>
    if s.haltBug then { s with pc := s.pc - 1, haltBug := false, dispatchStage := .m2 }
    else { s with dispatchStage := .m2 }
  | .m2 => { s with dispatchStage := .m3 }
  | .m3 => { State.memWrite (s.sp - 1) (hiByte s.pc) { s with sp := s.sp - 1 } with dispatchStage := .m4 }
  | .m4 =>
    { State.memWrite (s.sp - 1) (loByte s.pc) { s with sp := s.sp - 1, dispatchBit := lowestPending s.pending } with
      dispatchStage := .m5 }
  | .m5 =>
    match s.dispatchBit with
    | some k =>
      { s with ime := false, eiPending := false, ifl := s.ifl &&& ~~~(1#5 <<< k.bit), pc := k.vector,
               dispatchBit := none, dispatchStage := .idle }
    | none =>
      { s with ime := false, eiPending := false, pc := 0x0000, dispatchBit := none, dispatchStage := .idle }

/-- RETURNING FROM AN INTERRUPT (45_control.md R180): `PC <- pop16(); IME <- 1; eiPending <- 0`. -/
def State.returnFromInterrupt (s : State) : State :=
  { s.afterPop with pc := s.popWord, ime := true, eiPending := false }

/-- Recording a fault (60_exceptions.md R203). -/
def State.raise (k : Fault) (s : State) : State := { s with fault := some k }

/-- The fault of an unassigned opcode (46_system.md R192): PC goes back to the opcode, nothing else changes. -/
def State.illegalOpcode (op : Byte) (s : State) : State :=
  State.raise (.illegalOpcode s.opAddr op) { s with pc := s.opAddr }

end Sys2Proof.Machine
end

