-- ==== Sys2Proof/Machine/Alu16.lean ====
section
/-! DEFINITION. 16-bit arithmetic (43_alu16.md). -/
namespace Sys2Proof.Machine

/-- `ADD HL,rr` (43_alu16.md R140). -/
def addHl (p : Reg16) (s : State) : State :=
  State.setFlags (addHlResult s.hl (s.getPair p) s.flagZ).2 (s.setHl (addHlResult s.hl (s.getPair p) s.flagZ).1)

/-- `INC rr` (43_alu16.md R141). -/
def incPair (p : Reg16) (s : State) : State := s.setPair p (s.getPair p + 1)

/-- `DEC rr` (43_alu16.md R142). -/
def decPair (p : Reg16) (s : State) : State := s.setPair p (s.getPair p - 1)

/-- `ADD SP,e` (43_alu16.md R143). -/
def addSp (e : Byte) (s : State) : State :=
  State.setFlags (addSpResult s.sp e).2 { s with sp := (addSpResult s.sp e).1 }

/-! `ADD HL,rr` (43_alu16.md R140). -/

def execAddHlBc (s : State) : Result := .next (addHl .bc s)
def execAddHlDe (s : State) : Result := .next (addHl .de s)
def execAddHlHl (s : State) : Result := .next (addHl .hl s)
def execAddHlSp (s : State) : Result := .next (addHl .sp s)

/-! `INC rr` (43_alu16.md R141). -/

def execIncBc (s : State) : Result := .next (incPair .bc s)
def execIncDe (s : State) : Result := .next (incPair .de s)
def execIncHl (s : State) : Result := .next (incPair .hl s)
def execIncSp (s : State) : Result := .next (incPair .sp s)

/-! `DEC rr` (43_alu16.md R142). -/

def execDecBc (s : State) : Result := .next (decPair .bc s)
def execDecDe (s : State) : Result := .next (decPair .de s)
def execDecHl (s : State) : Result := .next (decPair .hl s)
def execDecSp (s : State) : Result := .next (decPair .sp s)

/-- `ADD SP,e` (43_alu16.md R143). -/
def execAddSpE (e : Byte) (s : State) : Result := .next (addSp e s)

end Sys2Proof.Machine
end

