-- ==== Sys2Proof/Machine/Alu8.lean ====
section
/-! DEFINITION. 8-bit arithmetic and logic (42_alu8.md). -/
namespace Sys2Proof.Machine

/-- `alu[y] A,s` (42_alu8.md R120 to R128). -/
def alu (op : AluOp) (src : Source) (s : State) : State :=
  State.setFlags (aluResult op s.a (s.sourceByte src) s.flagC).2
    { s.afterSource src with a := (aluResult op s.a (s.sourceByte src) s.flagC).1 }

/-- `INC r` and `INC (HL)` (42_alu8.md R129, R130). -/
def inc8 (o : Loc) (s : State) : State :=
  State.setFlags (incResult (s.locByte o) s.flagC).2 ((s.afterLoc o).writeLoc o (incResult (s.locByte o) s.flagC).1)

/-- `DEC r` and `DEC (HL)` (42_alu8.md R131, R132). -/
def dec8 (o : Loc) (s : State) : State :=
  State.setFlags (decResult (s.locByte o) s.flagC).2 ((s.afterLoc o).writeLoc o (decResult (s.locByte o) s.flagC).1)

/-- DAA (42_alu8.md R133). -/
def decimalAdjust (s : State) : State :=
  State.setFlags (daaResult s.a s.flagN s.flagH s.flagC).2 { s with a := (daaResult s.a s.flagN s.flagH s.flagC).1 }

/-! ADD, ADC, SUB, SBC, AND, XOR, OR, CP (42_alu8.md R121 to R128), each with its register, (HL) and immediate forms (R120). -/

def execAddAB (s : State) : Result := .next (alu .add (.reg .b) s)
def execAddAC (s : State) : Result := .next (alu .add (.reg .c) s)
def execAddAD (s : State) : Result := .next (alu .add (.reg .d) s)
def execAddAE (s : State) : Result := .next (alu .add (.reg .e) s)
def execAddAH (s : State) : Result := .next (alu .add (.reg .h) s)
def execAddAL (s : State) : Result := .next (alu .add (.reg .l) s)
def execAddAAtHl (s : State) : Result := .next (alu .add .atHl s)
def execAddAA (s : State) : Result := .next (alu .add (.reg .a) s)
def execAddAN (n : Byte) (s : State) : Result := .next (alu .add (.imm n) s)
def execAdcAB (s : State) : Result := .next (alu .adc (.reg .b) s)
def execAdcAC (s : State) : Result := .next (alu .adc (.reg .c) s)
def execAdcAD (s : State) : Result := .next (alu .adc (.reg .d) s)
def execAdcAE (s : State) : Result := .next (alu .adc (.reg .e) s)
def execAdcAH (s : State) : Result := .next (alu .adc (.reg .h) s)
def execAdcAL (s : State) : Result := .next (alu .adc (.reg .l) s)
def execAdcAAtHl (s : State) : Result := .next (alu .adc .atHl s)
def execAdcAA (s : State) : Result := .next (alu .adc (.reg .a) s)
def execAdcAN (n : Byte) (s : State) : Result := .next (alu .adc (.imm n) s)
def execSubB (s : State) : Result := .next (alu .sub (.reg .b) s)
def execSubC (s : State) : Result := .next (alu .sub (.reg .c) s)
def execSubD (s : State) : Result := .next (alu .sub (.reg .d) s)
def execSubE (s : State) : Result := .next (alu .sub (.reg .e) s)
def execSubH (s : State) : Result := .next (alu .sub (.reg .h) s)
def execSubL (s : State) : Result := .next (alu .sub (.reg .l) s)
def execSubAtHl (s : State) : Result := .next (alu .sub .atHl s)
def execSubA (s : State) : Result := .next (alu .sub (.reg .a) s)
def execSubN (n : Byte) (s : State) : Result := .next (alu .sub (.imm n) s)
def execSbcAB (s : State) : Result := .next (alu .sbc (.reg .b) s)
def execSbcAC (s : State) : Result := .next (alu .sbc (.reg .c) s)
def execSbcAD (s : State) : Result := .next (alu .sbc (.reg .d) s)
def execSbcAE (s : State) : Result := .next (alu .sbc (.reg .e) s)
def execSbcAH (s : State) : Result := .next (alu .sbc (.reg .h) s)
def execSbcAL (s : State) : Result := .next (alu .sbc (.reg .l) s)
def execSbcAAtHl (s : State) : Result := .next (alu .sbc .atHl s)
def execSbcAA (s : State) : Result := .next (alu .sbc (.reg .a) s)
def execSbcAN (n : Byte) (s : State) : Result := .next (alu .sbc (.imm n) s)
def execAndB (s : State) : Result := .next (alu .and (.reg .b) s)
def execAndC (s : State) : Result := .next (alu .and (.reg .c) s)
def execAndD (s : State) : Result := .next (alu .and (.reg .d) s)
def execAndE (s : State) : Result := .next (alu .and (.reg .e) s)
def execAndH (s : State) : Result := .next (alu .and (.reg .h) s)
def execAndL (s : State) : Result := .next (alu .and (.reg .l) s)
def execAndAtHl (s : State) : Result := .next (alu .and .atHl s)
def execAndA (s : State) : Result := .next (alu .and (.reg .a) s)
def execAndN (n : Byte) (s : State) : Result := .next (alu .and (.imm n) s)
def execXorB (s : State) : Result := .next (alu .xor (.reg .b) s)
def execXorC (s : State) : Result := .next (alu .xor (.reg .c) s)
def execXorD (s : State) : Result := .next (alu .xor (.reg .d) s)
def execXorE (s : State) : Result := .next (alu .xor (.reg .e) s)
def execXorH (s : State) : Result := .next (alu .xor (.reg .h) s)
def execXorL (s : State) : Result := .next (alu .xor (.reg .l) s)
def execXorAtHl (s : State) : Result := .next (alu .xor .atHl s)
def execXorA (s : State) : Result := .next (alu .xor (.reg .a) s)
def execXorN (n : Byte) (s : State) : Result := .next (alu .xor (.imm n) s)
def execOrB (s : State) : Result := .next (alu .or (.reg .b) s)
def execOrC (s : State) : Result := .next (alu .or (.reg .c) s)
def execOrD (s : State) : Result := .next (alu .or (.reg .d) s)
def execOrE (s : State) : Result := .next (alu .or (.reg .e) s)
def execOrH (s : State) : Result := .next (alu .or (.reg .h) s)
def execOrL (s : State) : Result := .next (alu .or (.reg .l) s)
def execOrAtHl (s : State) : Result := .next (alu .or .atHl s)
def execOrA (s : State) : Result := .next (alu .or (.reg .a) s)
def execOrN (n : Byte) (s : State) : Result := .next (alu .or (.imm n) s)
def execCpB (s : State) : Result := .next (alu .cp (.reg .b) s)
def execCpC (s : State) : Result := .next (alu .cp (.reg .c) s)
def execCpD (s : State) : Result := .next (alu .cp (.reg .d) s)
def execCpE (s : State) : Result := .next (alu .cp (.reg .e) s)
def execCpH (s : State) : Result := .next (alu .cp (.reg .h) s)
def execCpL (s : State) : Result := .next (alu .cp (.reg .l) s)
def execCpAtHl (s : State) : Result := .next (alu .cp .atHl s)
def execCpA (s : State) : Result := .next (alu .cp (.reg .a) s)
def execCpN (n : Byte) (s : State) : Result := .next (alu .cp (.imm n) s)

/-! `INC r` (42_alu8.md R129) and `INC (HL)` (R130). -/

def execIncB (s : State) : Result := .next (inc8 (.reg .b) s)
def execIncC (s : State) : Result := .next (inc8 (.reg .c) s)
def execIncD (s : State) : Result := .next (inc8 (.reg .d) s)
def execIncE (s : State) : Result := .next (inc8 (.reg .e) s)
def execIncH (s : State) : Result := .next (inc8 (.reg .h) s)
def execIncL (s : State) : Result := .next (inc8 (.reg .l) s)
def execIncAtHl (s : State) : Result := .next (inc8 .atHl s)
def execIncA (s : State) : Result := .next (inc8 (.reg .a) s)

/-! `DEC r` (42_alu8.md R131) and `DEC (HL)` (R132). -/

def execDecB (s : State) : Result := .next (dec8 (.reg .b) s)
def execDecC (s : State) : Result := .next (dec8 (.reg .c) s)
def execDecD (s : State) : Result := .next (dec8 (.reg .d) s)
def execDecE (s : State) : Result := .next (dec8 (.reg .e) s)
def execDecH (s : State) : Result := .next (dec8 (.reg .h) s)
def execDecL (s : State) : Result := .next (dec8 (.reg .l) s)
def execDecAtHl (s : State) : Result := .next (dec8 .atHl s)
def execDecA (s : State) : Result := .next (dec8 (.reg .a) s)

/-- `DAA` (42_alu8.md R133). -/
def execDaa (s : State) : Result := .next (decimalAdjust s)

/-- `CPL` (42_alu8.md R134). -/
def execCpl (s : State) : Result := .next (State.putFlags s.flagZ true true s.flagC { s with a := ~~~s.a })

/-- `SCF` (42_alu8.md R135). -/
def execScf (s : State) : Result := .next (s.putFlags s.flagZ false false true)

/-- `CCF` (42_alu8.md R136). -/
def execCcf (s : State) : Result := .next (s.putFlags s.flagZ false false (!s.flagC))

end Sys2Proof.Machine
end

