-- ==== Sys2Proof/Machine/Control.lean ====
section
/-! DEFINITION. Jumps, calls and returns (45_control.md). PC is past the whole instruction when a meaning runs. -/
namespace Sys2Proof.Machine

/-- `PC <- t` (45_control.md R171, R173). -/
def jump (t : Word) (s : State) : State := { s with pc := t }

/-- `PC <- (PC + sext_16(e)) mod 2^16` (45_control.md R174). -/
def jumpRel (e : Byte) (s : State) : State := { s with pc := s.pc + sext16 e }

/-- `push16(PC); PC <- t` (45_control.md R176, R181). -/
def call (t : Word) (s : State) : State := { s.push16 s.pc with pc := t }

/-- `PC <- pop16()` (45_control.md R178). -/
def ret (s : State) : State := { s.afterPop with pc := s.popWord }

/-- An effect under a condition (45_control.md R170). -/
def ifCond (cc : Cond) (taken : State → State) (s : State) : State := if s.cond cc then taken s else s

/-- `JP cc,nn` (45_control.md R172). -/
def jpCond (cc : Cond) (nn : Word) (s : State) : State := ifCond cc (jump nn) s

/-- `JR cc,e` (45_control.md R175). -/
def jrCond (cc : Cond) (e : Byte) (s : State) : State := ifCond cc (jumpRel e) s

/-- `CALL cc,nn` (45_control.md R177). -/
def callCond (cc : Cond) (nn : Word) (s : State) : State := ifCond cc (call nn) s

/-- `RET cc` (45_control.md R179). -/
def retCond (cc : Cond) (s : State) : State := ifCond cc ret s

/-- `RST 8*y` (45_control.md R181). -/
def rst (y : Fin 8) (s : State) : State := call (BitVec.ofNat 16 (8 * y.val)) s

/-- `JP nn` (45_control.md R171). -/
def execJpNn (nn : Word) (s : State) : Result := .next (jump nn s)

/-! `JP cc,nn` (45_control.md R172). -/

def execJpNzNn (nn : Word) (s : State) : Result := .next (jpCond .nz nn s)
def execJpZNn (nn : Word) (s : State) : Result := .next (jpCond .z nn s)
def execJpNcNn (nn : Word) (s : State) : Result := .next (jpCond .nc nn s)
def execJpCNn (nn : Word) (s : State) : Result := .next (jpCond .c nn s)

/-- `JP HL` (45_control.md R173). -/
def execJpHl (s : State) : Result := .next (jump s.hl s)

/-- `JR e` (45_control.md R174). -/
def execJrE (e : Byte) (s : State) : Result := .next (jumpRel e s)

/-! `JR cc,e` (45_control.md R175). -/

def execJrNzE (e : Byte) (s : State) : Result := .next (jrCond .nz e s)
def execJrZE (e : Byte) (s : State) : Result := .next (jrCond .z e s)
def execJrNcE (e : Byte) (s : State) : Result := .next (jrCond .nc e s)
def execJrCE (e : Byte) (s : State) : Result := .next (jrCond .c e s)

/-- `CALL nn` (45_control.md R176). -/
def execCallNn (nn : Word) (s : State) : Result := .next (call nn s)

/-! `CALL cc,nn` (45_control.md R177). -/

def execCallNzNn (nn : Word) (s : State) : Result := .next (callCond .nz nn s)
def execCallZNn (nn : Word) (s : State) : Result := .next (callCond .z nn s)
def execCallNcNn (nn : Word) (s : State) : Result := .next (callCond .nc nn s)
def execCallCNn (nn : Word) (s : State) : Result := .next (callCond .c nn s)

/-- `RET` (45_control.md R178). -/
def execRet (s : State) : Result := .next (ret s)

/-! `RET cc` (45_control.md R179). -/

def execRetNz (s : State) : Result := .next (retCond .nz s)
def execRetZ (s : State) : Result := .next (retCond .z s)
def execRetNc (s : State) : Result := .next (retCond .nc s)
def execRetC (s : State) : Result := .next (retCond .c s)

/-- `RETI` (45_control.md R180). -/
def execReti (s : State) : Result := .next (s.returnFromInterrupt)

/-! `RST t` (45_control.md R181). -/

def execRst00 (s : State) : Result := .next (rst 0 s)
def execRst08 (s : State) : Result := .next (rst 1 s)
def execRst10 (s : State) : Result := .next (rst 2 s)
def execRst18 (s : State) : Result := .next (rst 3 s)
def execRst20 (s : State) : Result := .next (rst 4 s)
def execRst28 (s : State) : Result := .next (rst 5 s)
def execRst30 (s : State) : Result := .next (rst 6 s)
def execRst38 (s : State) : Result := .next (rst 7 s)

end Sys2Proof.Machine
end

