-- ==== Sys2Proof/Machine/Load16.lean ====
section
/-! DEFINITION. The 16-bit loads and the stack instructions (41_load16.md). -/
namespace Sys2Proof.Machine

/-- `LD rr,nn` (41_load16.md R110). -/
def ldPair (p : Reg16) (nn : Word) (s : State) : State := s.setPair p nn

/-- `LD (nn),SP` (41_load16.md R111): low byte at nn, then high byte at nn + 1. -/
def storeSp (nn : Word) (s : State) : State := (s.memWrite nn (loByte s.sp)).memWrite (nn + 1) (hiByte s.sp)

/-- `PUSH rr` (41_load16.md R112). -/
def push (p : StackReg) (s : State) : State := s.push16 (s.getStackReg p)

/-- `POP rr` (41_load16.md R113). -/
def pop (p : StackReg) (s : State) : State := s.afterPop.setStackReg p s.popWord

/-- `LD HL,SP+e` (41_load16.md R115). -/
def ldHlSpOffset (e : Byte) (s : State) : State :=
  State.setFlags (addSpResult s.sp e).2 (s.setHl (addSpResult s.sp e).1)

/-! `LD rr,nn` (41_load16.md R110). -/

def execLdBcNn (nn : Word) (s : State) : Result := .next (ldPair .bc nn s)
def execLdDeNn (nn : Word) (s : State) : Result := .next (ldPair .de nn s)
def execLdHlNn (nn : Word) (s : State) : Result := .next (ldPair .hl nn s)
def execLdSpNn (nn : Word) (s : State) : Result := .next (ldPair .sp nn s)

/-- `LD (nn),SP` (41_load16.md R111). -/
def execLdAtNnSp (nn : Word) (s : State) : Result := .next (storeSp nn s)

/-! `PUSH rr` (41_load16.md R112). -/

def execPushBc (s : State) : Result := .next (push .bc s)
def execPushDe (s : State) : Result := .next (push .de s)
def execPushHl (s : State) : Result := .next (push .hl s)
def execPushAf (s : State) : Result := .next (push .af s)

/-! `POP rr` (41_load16.md R113). -/

def execPopBc (s : State) : Result := .next (pop .bc s)
def execPopDe (s : State) : Result := .next (pop .de s)
def execPopHl (s : State) : Result := .next (pop .hl s)
def execPopAf (s : State) : Result := .next (pop .af s)

/-- `LD SP,HL` (41_load16.md R114). -/
def execLdSpHl (s : State) : Result := .next ({ s with sp := s.hl })

/-- `LD HL,SP+e` (41_load16.md R115). -/
def execLdHlSpPlusE (e : Byte) (s : State) : Result := .next (ldHlSpOffset e s)

end Sys2Proof.Machine
end

