-- ==== Sys2Proof/Machine/Load8.lean ====
section
/-! DEFINITION. The 8-bit loads (40_load8.md). No load writes a flag. -/
namespace Sys2Proof.Machine

/-- `R[dst] <- R[src]` (40_load8.md R90). -/
def ldReg (dst src : Reg8) (s : State) : State := s.setReg dst (s.getReg src)

/-- `R[r] <- n` (40_load8.md R91). -/
def ldImm (r : Reg8) (n : Byte) (s : State) : State := s.setReg r n

/-- `R[r] <- MemRead(addr, 1)` (40_load8.md R92, R95, R96, R99, R101, R103). -/
def ldFromMem (r : Reg8) (addr : Word) (s : State) : State := (s.afterRead addr).setReg r (s.readByte addr)

/-- `MemWrite(addr, 1, v)` (40_load8.md R93, R94, R97, R98, R100, R102, R104). -/
def ldToMem (addr : Word) (v : Byte) (s : State) : State := s.memWrite addr v

/-- `LD r,(HL)` (40_load8.md R92): the address is the old HL. -/
def ldFromHl (r : Reg8) (s : State) : State := ldFromMem r s.hl s

/-- `LD (HL),r` (40_load8.md R93). -/
def ldToHl (r : Reg8) (s : State) : State := ldToMem s.hl (s.getReg r) s

/-- `A <- MemRead(a, 1); RP[HL] <- next` with a the old HL (40_load8.md R105, R106). -/
def ldAFromHlThen (next : Word) (s : State) : State := (ldFromMem .a s.hl s).setHl next

/-- `MemWrite(a, 1, A); RP[HL] <- next` with a the old HL (40_load8.md R107, R108). -/
def ldAToHlThen (next : Word) (s : State) : State := (ldToMem s.hl s.a s).setHl next

/-! `LD r,r'` (40_load8.md R90). -/

def execLdBB (s : State) : Result := .next (ldReg .b .b s)
def execLdBC (s : State) : Result := .next (ldReg .b .c s)
def execLdBD (s : State) : Result := .next (ldReg .b .d s)
def execLdBE (s : State) : Result := .next (ldReg .b .e s)
def execLdBH (s : State) : Result := .next (ldReg .b .h s)
def execLdBL (s : State) : Result := .next (ldReg .b .l s)
def execLdBA (s : State) : Result := .next (ldReg .b .a s)
def execLdCB (s : State) : Result := .next (ldReg .c .b s)
def execLdCC (s : State) : Result := .next (ldReg .c .c s)
def execLdCD (s : State) : Result := .next (ldReg .c .d s)
def execLdCE (s : State) : Result := .next (ldReg .c .e s)
def execLdCH (s : State) : Result := .next (ldReg .c .h s)
def execLdCL (s : State) : Result := .next (ldReg .c .l s)
def execLdCA (s : State) : Result := .next (ldReg .c .a s)
def execLdDB (s : State) : Result := .next (ldReg .d .b s)
def execLdDC (s : State) : Result := .next (ldReg .d .c s)
def execLdDD (s : State) : Result := .next (ldReg .d .d s)
def execLdDE (s : State) : Result := .next (ldReg .d .e s)
def execLdDH (s : State) : Result := .next (ldReg .d .h s)
def execLdDL (s : State) : Result := .next (ldReg .d .l s)
def execLdDA (s : State) : Result := .next (ldReg .d .a s)
def execLdEB (s : State) : Result := .next (ldReg .e .b s)
def execLdEC (s : State) : Result := .next (ldReg .e .c s)
def execLdED (s : State) : Result := .next (ldReg .e .d s)
def execLdEE (s : State) : Result := .next (ldReg .e .e s)
def execLdEH (s : State) : Result := .next (ldReg .e .h s)
def execLdEL (s : State) : Result := .next (ldReg .e .l s)
def execLdEA (s : State) : Result := .next (ldReg .e .a s)
def execLdHB (s : State) : Result := .next (ldReg .h .b s)
def execLdHC (s : State) : Result := .next (ldReg .h .c s)
def execLdHD (s : State) : Result := .next (ldReg .h .d s)
def execLdHE (s : State) : Result := .next (ldReg .h .e s)
def execLdHH (s : State) : Result := .next (ldReg .h .h s)
def execLdHL (s : State) : Result := .next (ldReg .h .l s)
def execLdHA (s : State) : Result := .next (ldReg .h .a s)
def execLdLB (s : State) : Result := .next (ldReg .l .b s)
def execLdLC (s : State) : Result := .next (ldReg .l .c s)
def execLdLD (s : State) : Result := .next (ldReg .l .d s)
def execLdLE (s : State) : Result := .next (ldReg .l .e s)
def execLdLH (s : State) : Result := .next (ldReg .l .h s)
def execLdLL (s : State) : Result := .next (ldReg .l .l s)
def execLdLA (s : State) : Result := .next (ldReg .l .a s)
def execLdAB (s : State) : Result := .next (ldReg .a .b s)
def execLdAC (s : State) : Result := .next (ldReg .a .c s)
def execLdAD (s : State) : Result := .next (ldReg .a .d s)
def execLdAE (s : State) : Result := .next (ldReg .a .e s)
def execLdAH (s : State) : Result := .next (ldReg .a .h s)
def execLdAL (s : State) : Result := .next (ldReg .a .l s)
def execLdAA (s : State) : Result := .next (ldReg .a .a s)

/-! `LD r,n` (40_load8.md R91). -/

def execLdBN (n : Byte) (s : State) : Result := .next (ldImm .b n s)
def execLdCN (n : Byte) (s : State) : Result := .next (ldImm .c n s)
def execLdDN (n : Byte) (s : State) : Result := .next (ldImm .d n s)
def execLdEN (n : Byte) (s : State) : Result := .next (ldImm .e n s)
def execLdHN (n : Byte) (s : State) : Result := .next (ldImm .h n s)
def execLdLN (n : Byte) (s : State) : Result := .next (ldImm .l n s)
def execLdAN (n : Byte) (s : State) : Result := .next (ldImm .a n s)

/-! `LD r,(HL)` (40_load8.md R92). -/

def execLdBAtHl (s : State) : Result := .next (ldFromHl .b s)
def execLdCAtHl (s : State) : Result := .next (ldFromHl .c s)
def execLdDAtHl (s : State) : Result := .next (ldFromHl .d s)
def execLdEAtHl (s : State) : Result := .next (ldFromHl .e s)
def execLdHAtHl (s : State) : Result := .next (ldFromHl .h s)
def execLdLAtHl (s : State) : Result := .next (ldFromHl .l s)
def execLdAAtHl (s : State) : Result := .next (ldFromHl .a s)

/-! `LD (HL),r` (40_load8.md R93). -/

def execLdAtHlB (s : State) : Result := .next (ldToHl .b s)
def execLdAtHlC (s : State) : Result := .next (ldToHl .c s)
def execLdAtHlD (s : State) : Result := .next (ldToHl .d s)
def execLdAtHlE (s : State) : Result := .next (ldToHl .e s)
def execLdAtHlH (s : State) : Result := .next (ldToHl .h s)
def execLdAtHlL (s : State) : Result := .next (ldToHl .l s)
def execLdAtHlA (s : State) : Result := .next (ldToHl .a s)

/-- `LD (HL),n` (40_load8.md R94). -/
def execLdAtHlN (n : Byte) (s : State) : Result := .next (ldToMem s.hl n s)

/-- `LD A,(BC)` (40_load8.md R95). -/
def execLdAAtBc (s : State) : Result := .next (ldFromMem .a (s.getPair .bc) s)

/-- `LD A,(DE)` (40_load8.md R96). -/
def execLdAAtDe (s : State) : Result := .next (ldFromMem .a (s.getPair .de) s)

/-- `LD (BC),A` (40_load8.md R97). -/
def execLdAtBcA (s : State) : Result := .next (ldToMem (s.getPair .bc) s.a s)

/-- `LD (DE),A` (40_load8.md R98). -/
def execLdAtDeA (s : State) : Result := .next (ldToMem (s.getPair .de) s.a s)

/-- `LD A,(nn)` (40_load8.md R99). -/
def execLdAAtNn (nn : Word) (s : State) : Result := .next (ldFromMem .a nn s)

/-- `LD (nn),A` (40_load8.md R100). -/
def execLdAtNnA (nn : Word) (s : State) : Result := .next (ldToMem nn s.a s)

/-- `LDH A,(n)` (40_load8.md R101). -/
def execLdhAAtN (n : Byte) (s : State) : Result := .next (ldFromMem .a (highPage n) s)

/-- `LDH (n),A` (40_load8.md R102). -/
def execLdhAtNA (n : Byte) (s : State) : Result := .next (ldToMem (highPage n) s.a s)

/-- `LDH A,(C)` (40_load8.md R103). -/
def execLdhAAtC (s : State) : Result := .next (ldFromMem .a (highPage s.c) s)

/-- `LDH (C),A` (40_load8.md R104). -/
def execLdhAtCA (s : State) : Result := .next (ldToMem (highPage s.c) s.a s)

/-- `LD A,(HL+)` (40_load8.md R105). -/
def execLdAAtHlInc (s : State) : Result := .next (ldAFromHlThen (s.hl + 1) s)

/-- `LD A,(HL-)` (40_load8.md R106). -/
def execLdAAtHlDec (s : State) : Result := .next (ldAFromHlThen (s.hl - 1) s)

/-- `LD (HL+),A` (40_load8.md R107). -/
def execLdAtHlIncA (s : State) : Result := .next (ldAToHlThen (s.hl + 1) s)

/-- `LD (HL-),A` (40_load8.md R108). -/
def execLdAtHlDecA (s : State) : Result := .next (ldAToHlThen (s.hl - 1) s)

end Sys2Proof.Machine
end

