-- ==== Sys2Proof/Machine/RotShiftBit.lean ====
section
/-! DEFINITION. Rotates, shifts and bit operations (44_rotate_shift_bit.md). -/
namespace Sys2Proof.Machine

/-- The accumulator forms: Z is always 0 (44_rotate_shift_bit.md R150 to R153). -/
def rotA (op : RotOp) (s : State) : State :=
  State.putFlags false false false (rotResult op s.a s.flagC).2 { s with a := (rotResult op s.a s.flagC).1 }

/-- The 0xCB rotates, shifts and SWAP (44_rotate_shift_bit.md R154 to R162). -/
def rot (op : RotOp) (o : Loc) (s : State) : State :=
  State.putFlags ((rotResult op (s.locByte o) s.flagC).1 == 0) false false (rotResult op (s.locByte o) s.flagC).2
    ((s.afterLoc o).writeLoc o (rotResult op (s.locByte o) s.flagC).1)

/-- `BIT b,o` (44_rotate_shift_bit.md R163). -/
def testBit (b : Fin 8) (o : Loc) (s : State) : State :=
  State.putFlags (!(s.locByte o).getLsbD b.val) false true s.flagC (s.afterLoc o)

/-- `RES b,o` (44_rotate_shift_bit.md R164). -/
def resBit (b : Fin 8) (o : Loc) (s : State) : State :=
  (s.afterLoc o).writeLoc o (s.locByte o &&& ~~~(1#8 <<< b.val))

/-- `SET b,o` (44_rotate_shift_bit.md R165). -/
def setBit (b : Fin 8) (o : Loc) (s : State) : State :=
  (s.afterLoc o).writeLoc o (s.locByte o ||| (1#8 <<< b.val))

/-- `RLCA` (44_rotate_shift_bit.md R150). -/
def execRlca (s : State) : Result := .next (rotA .rlc s)

/-- `RRCA` (44_rotate_shift_bit.md R151). -/
def execRrca (s : State) : Result := .next (rotA .rrc s)

/-- `RLA` (44_rotate_shift_bit.md R152). -/
def execRla (s : State) : Result := .next (rotA .rl s)

/-- `RRA` (44_rotate_shift_bit.md R153). -/
def execRra (s : State) : Result := .next (rotA .rr s)

/-! RLC, RRC, RL, RR, SLA, SRA, SWAP, SRL (44_rotate_shift_bit.md R155 to R162). -/

def execRlcB (s : State) : Result := .next (rot .rlc (.reg .b) s)
def execRlcC (s : State) : Result := .next (rot .rlc (.reg .c) s)
def execRlcD (s : State) : Result := .next (rot .rlc (.reg .d) s)
def execRlcE (s : State) : Result := .next (rot .rlc (.reg .e) s)
def execRlcH (s : State) : Result := .next (rot .rlc (.reg .h) s)
def execRlcL (s : State) : Result := .next (rot .rlc (.reg .l) s)
def execRlcAtHl (s : State) : Result := .next (rot .rlc .atHl s)
def execRlcA (s : State) : Result := .next (rot .rlc (.reg .a) s)
def execRrcB (s : State) : Result := .next (rot .rrc (.reg .b) s)
def execRrcC (s : State) : Result := .next (rot .rrc (.reg .c) s)
def execRrcD (s : State) : Result := .next (rot .rrc (.reg .d) s)
def execRrcE (s : State) : Result := .next (rot .rrc (.reg .e) s)
def execRrcH (s : State) : Result := .next (rot .rrc (.reg .h) s)
def execRrcL (s : State) : Result := .next (rot .rrc (.reg .l) s)
def execRrcAtHl (s : State) : Result := .next (rot .rrc .atHl s)
def execRrcA (s : State) : Result := .next (rot .rrc (.reg .a) s)
def execRlB (s : State) : Result := .next (rot .rl (.reg .b) s)
def execRlC (s : State) : Result := .next (rot .rl (.reg .c) s)
def execRlD (s : State) : Result := .next (rot .rl (.reg .d) s)
def execRlE (s : State) : Result := .next (rot .rl (.reg .e) s)
def execRlH (s : State) : Result := .next (rot .rl (.reg .h) s)
def execRlL (s : State) : Result := .next (rot .rl (.reg .l) s)
def execRlAtHl (s : State) : Result := .next (rot .rl .atHl s)
def execRlA (s : State) : Result := .next (rot .rl (.reg .a) s)
def execRrB (s : State) : Result := .next (rot .rr (.reg .b) s)
def execRrC (s : State) : Result := .next (rot .rr (.reg .c) s)
def execRrD (s : State) : Result := .next (rot .rr (.reg .d) s)
def execRrE (s : State) : Result := .next (rot .rr (.reg .e) s)
def execRrH (s : State) : Result := .next (rot .rr (.reg .h) s)
def execRrL (s : State) : Result := .next (rot .rr (.reg .l) s)
def execRrAtHl (s : State) : Result := .next (rot .rr .atHl s)
def execRrA (s : State) : Result := .next (rot .rr (.reg .a) s)
def execSlaB (s : State) : Result := .next (rot .sla (.reg .b) s)
def execSlaC (s : State) : Result := .next (rot .sla (.reg .c) s)
def execSlaD (s : State) : Result := .next (rot .sla (.reg .d) s)
def execSlaE (s : State) : Result := .next (rot .sla (.reg .e) s)
def execSlaH (s : State) : Result := .next (rot .sla (.reg .h) s)
def execSlaL (s : State) : Result := .next (rot .sla (.reg .l) s)
def execSlaAtHl (s : State) : Result := .next (rot .sla .atHl s)
def execSlaA (s : State) : Result := .next (rot .sla (.reg .a) s)
def execSraB (s : State) : Result := .next (rot .sra (.reg .b) s)
def execSraC (s : State) : Result := .next (rot .sra (.reg .c) s)
def execSraD (s : State) : Result := .next (rot .sra (.reg .d) s)
def execSraE (s : State) : Result := .next (rot .sra (.reg .e) s)
def execSraH (s : State) : Result := .next (rot .sra (.reg .h) s)
def execSraL (s : State) : Result := .next (rot .sra (.reg .l) s)
def execSraAtHl (s : State) : Result := .next (rot .sra .atHl s)
def execSraA (s : State) : Result := .next (rot .sra (.reg .a) s)
def execSwapB (s : State) : Result := .next (rot .swap (.reg .b) s)
def execSwapC (s : State) : Result := .next (rot .swap (.reg .c) s)
def execSwapD (s : State) : Result := .next (rot .swap (.reg .d) s)
def execSwapE (s : State) : Result := .next (rot .swap (.reg .e) s)
def execSwapH (s : State) : Result := .next (rot .swap (.reg .h) s)
def execSwapL (s : State) : Result := .next (rot .swap (.reg .l) s)
def execSwapAtHl (s : State) : Result := .next (rot .swap .atHl s)
def execSwapA (s : State) : Result := .next (rot .swap (.reg .a) s)
def execSrlB (s : State) : Result := .next (rot .srl (.reg .b) s)
def execSrlC (s : State) : Result := .next (rot .srl (.reg .c) s)
def execSrlD (s : State) : Result := .next (rot .srl (.reg .d) s)
def execSrlE (s : State) : Result := .next (rot .srl (.reg .e) s)
def execSrlH (s : State) : Result := .next (rot .srl (.reg .h) s)
def execSrlL (s : State) : Result := .next (rot .srl (.reg .l) s)
def execSrlAtHl (s : State) : Result := .next (rot .srl .atHl s)
def execSrlA (s : State) : Result := .next (rot .srl (.reg .a) s)

/-! `BIT b,o` (44_rotate_shift_bit.md R163). -/

def execBit0B (s : State) : Result := .next (testBit 0 (.reg .b) s)
def execBit0C (s : State) : Result := .next (testBit 0 (.reg .c) s)
def execBit0D (s : State) : Result := .next (testBit 0 (.reg .d) s)
def execBit0E (s : State) : Result := .next (testBit 0 (.reg .e) s)
def execBit0H (s : State) : Result := .next (testBit 0 (.reg .h) s)
def execBit0L (s : State) : Result := .next (testBit 0 (.reg .l) s)
def execBit0AtHl (s : State) : Result := .next (testBit 0 .atHl s)
def execBit0A (s : State) : Result := .next (testBit 0 (.reg .a) s)
def execBit1B (s : State) : Result := .next (testBit 1 (.reg .b) s)
def execBit1C (s : State) : Result := .next (testBit 1 (.reg .c) s)
def execBit1D (s : State) : Result := .next (testBit 1 (.reg .d) s)
def execBit1E (s : State) : Result := .next (testBit 1 (.reg .e) s)
def execBit1H (s : State) : Result := .next (testBit 1 (.reg .h) s)
def execBit1L (s : State) : Result := .next (testBit 1 (.reg .l) s)
def execBit1AtHl (s : State) : Result := .next (testBit 1 .atHl s)
def execBit1A (s : State) : Result := .next (testBit 1 (.reg .a) s)
def execBit2B (s : State) : Result := .next (testBit 2 (.reg .b) s)
def execBit2C (s : State) : Result := .next (testBit 2 (.reg .c) s)
def execBit2D (s : State) : Result := .next (testBit 2 (.reg .d) s)
def execBit2E (s : State) : Result := .next (testBit 2 (.reg .e) s)
def execBit2H (s : State) : Result := .next (testBit 2 (.reg .h) s)
def execBit2L (s : State) : Result := .next (testBit 2 (.reg .l) s)
def execBit2AtHl (s : State) : Result := .next (testBit 2 .atHl s)
def execBit2A (s : State) : Result := .next (testBit 2 (.reg .a) s)
def execBit3B (s : State) : Result := .next (testBit 3 (.reg .b) s)
def execBit3C (s : State) : Result := .next (testBit 3 (.reg .c) s)
def execBit3D (s : State) : Result := .next (testBit 3 (.reg .d) s)
def execBit3E (s : State) : Result := .next (testBit 3 (.reg .e) s)
def execBit3H (s : State) : Result := .next (testBit 3 (.reg .h) s)
def execBit3L (s : State) : Result := .next (testBit 3 (.reg .l) s)
def execBit3AtHl (s : State) : Result := .next (testBit 3 .atHl s)
def execBit3A (s : State) : Result := .next (testBit 3 (.reg .a) s)
def execBit4B (s : State) : Result := .next (testBit 4 (.reg .b) s)
def execBit4C (s : State) : Result := .next (testBit 4 (.reg .c) s)
def execBit4D (s : State) : Result := .next (testBit 4 (.reg .d) s)
def execBit4E (s : State) : Result := .next (testBit 4 (.reg .e) s)
def execBit4H (s : State) : Result := .next (testBit 4 (.reg .h) s)
def execBit4L (s : State) : Result := .next (testBit 4 (.reg .l) s)
def execBit4AtHl (s : State) : Result := .next (testBit 4 .atHl s)
def execBit4A (s : State) : Result := .next (testBit 4 (.reg .a) s)
def execBit5B (s : State) : Result := .next (testBit 5 (.reg .b) s)
def execBit5C (s : State) : Result := .next (testBit 5 (.reg .c) s)
def execBit5D (s : State) : Result := .next (testBit 5 (.reg .d) s)
def execBit5E (s : State) : Result := .next (testBit 5 (.reg .e) s)
def execBit5H (s : State) : Result := .next (testBit 5 (.reg .h) s)
def execBit5L (s : State) : Result := .next (testBit 5 (.reg .l) s)
def execBit5AtHl (s : State) : Result := .next (testBit 5 .atHl s)
def execBit5A (s : State) : Result := .next (testBit 5 (.reg .a) s)
def execBit6B (s : State) : Result := .next (testBit 6 (.reg .b) s)
def execBit6C (s : State) : Result := .next (testBit 6 (.reg .c) s)
def execBit6D (s : State) : Result := .next (testBit 6 (.reg .d) s)
def execBit6E (s : State) : Result := .next (testBit 6 (.reg .e) s)
def execBit6H (s : State) : Result := .next (testBit 6 (.reg .h) s)
def execBit6L (s : State) : Result := .next (testBit 6 (.reg .l) s)
def execBit6AtHl (s : State) : Result := .next (testBit 6 .atHl s)
def execBit6A (s : State) : Result := .next (testBit 6 (.reg .a) s)
def execBit7B (s : State) : Result := .next (testBit 7 (.reg .b) s)
def execBit7C (s : State) : Result := .next (testBit 7 (.reg .c) s)
def execBit7D (s : State) : Result := .next (testBit 7 (.reg .d) s)
def execBit7E (s : State) : Result := .next (testBit 7 (.reg .e) s)
def execBit7H (s : State) : Result := .next (testBit 7 (.reg .h) s)
def execBit7L (s : State) : Result := .next (testBit 7 (.reg .l) s)
def execBit7AtHl (s : State) : Result := .next (testBit 7 .atHl s)
def execBit7A (s : State) : Result := .next (testBit 7 (.reg .a) s)

/-! `RES b,o` (44_rotate_shift_bit.md R164). -/

def execRes0B (s : State) : Result := .next (resBit 0 (.reg .b) s)
def execRes0C (s : State) : Result := .next (resBit 0 (.reg .c) s)
def execRes0D (s : State) : Result := .next (resBit 0 (.reg .d) s)
def execRes0E (s : State) : Result := .next (resBit 0 (.reg .e) s)
def execRes0H (s : State) : Result := .next (resBit 0 (.reg .h) s)
def execRes0L (s : State) : Result := .next (resBit 0 (.reg .l) s)
def execRes0AtHl (s : State) : Result := .next (resBit 0 .atHl s)
def execRes0A (s : State) : Result := .next (resBit 0 (.reg .a) s)
def execRes1B (s : State) : Result := .next (resBit 1 (.reg .b) s)
def execRes1C (s : State) : Result := .next (resBit 1 (.reg .c) s)
def execRes1D (s : State) : Result := .next (resBit 1 (.reg .d) s)
def execRes1E (s : State) : Result := .next (resBit 1 (.reg .e) s)
def execRes1H (s : State) : Result := .next (resBit 1 (.reg .h) s)
def execRes1L (s : State) : Result := .next (resBit 1 (.reg .l) s)
def execRes1AtHl (s : State) : Result := .next (resBit 1 .atHl s)
def execRes1A (s : State) : Result := .next (resBit 1 (.reg .a) s)
def execRes2B (s : State) : Result := .next (resBit 2 (.reg .b) s)
def execRes2C (s : State) : Result := .next (resBit 2 (.reg .c) s)
def execRes2D (s : State) : Result := .next (resBit 2 (.reg .d) s)
def execRes2E (s : State) : Result := .next (resBit 2 (.reg .e) s)
def execRes2H (s : State) : Result := .next (resBit 2 (.reg .h) s)
def execRes2L (s : State) : Result := .next (resBit 2 (.reg .l) s)
def execRes2AtHl (s : State) : Result := .next (resBit 2 .atHl s)
def execRes2A (s : State) : Result := .next (resBit 2 (.reg .a) s)
def execRes3B (s : State) : Result := .next (resBit 3 (.reg .b) s)
def execRes3C (s : State) : Result := .next (resBit 3 (.reg .c) s)
def execRes3D (s : State) : Result := .next (resBit 3 (.reg .d) s)
def execRes3E (s : State) : Result := .next (resBit 3 (.reg .e) s)
def execRes3H (s : State) : Result := .next (resBit 3 (.reg .h) s)
def execRes3L (s : State) : Result := .next (resBit 3 (.reg .l) s)
def execRes3AtHl (s : State) : Result := .next (resBit 3 .atHl s)
def execRes3A (s : State) : Result := .next (resBit 3 (.reg .a) s)
def execRes4B (s : State) : Result := .next (resBit 4 (.reg .b) s)
def execRes4C (s : State) : Result := .next (resBit 4 (.reg .c) s)
def execRes4D (s : State) : Result := .next (resBit 4 (.reg .d) s)
def execRes4E (s : State) : Result := .next (resBit 4 (.reg .e) s)
def execRes4H (s : State) : Result := .next (resBit 4 (.reg .h) s)
def execRes4L (s : State) : Result := .next (resBit 4 (.reg .l) s)
def execRes4AtHl (s : State) : Result := .next (resBit 4 .atHl s)
def execRes4A (s : State) : Result := .next (resBit 4 (.reg .a) s)
def execRes5B (s : State) : Result := .next (resBit 5 (.reg .b) s)
def execRes5C (s : State) : Result := .next (resBit 5 (.reg .c) s)
def execRes5D (s : State) : Result := .next (resBit 5 (.reg .d) s)
def execRes5E (s : State) : Result := .next (resBit 5 (.reg .e) s)
def execRes5H (s : State) : Result := .next (resBit 5 (.reg .h) s)
def execRes5L (s : State) : Result := .next (resBit 5 (.reg .l) s)
def execRes5AtHl (s : State) : Result := .next (resBit 5 .atHl s)
def execRes5A (s : State) : Result := .next (resBit 5 (.reg .a) s)
def execRes6B (s : State) : Result := .next (resBit 6 (.reg .b) s)
def execRes6C (s : State) : Result := .next (resBit 6 (.reg .c) s)
def execRes6D (s : State) : Result := .next (resBit 6 (.reg .d) s)
def execRes6E (s : State) : Result := .next (resBit 6 (.reg .e) s)
def execRes6H (s : State) : Result := .next (resBit 6 (.reg .h) s)
def execRes6L (s : State) : Result := .next (resBit 6 (.reg .l) s)
def execRes6AtHl (s : State) : Result := .next (resBit 6 .atHl s)
def execRes6A (s : State) : Result := .next (resBit 6 (.reg .a) s)
def execRes7B (s : State) : Result := .next (resBit 7 (.reg .b) s)
def execRes7C (s : State) : Result := .next (resBit 7 (.reg .c) s)
def execRes7D (s : State) : Result := .next (resBit 7 (.reg .d) s)
def execRes7E (s : State) : Result := .next (resBit 7 (.reg .e) s)
def execRes7H (s : State) : Result := .next (resBit 7 (.reg .h) s)
def execRes7L (s : State) : Result := .next (resBit 7 (.reg .l) s)
def execRes7AtHl (s : State) : Result := .next (resBit 7 .atHl s)
def execRes7A (s : State) : Result := .next (resBit 7 (.reg .a) s)

/-! `SET b,o` (44_rotate_shift_bit.md R165). -/

def execSet0B (s : State) : Result := .next (setBit 0 (.reg .b) s)
def execSet0C (s : State) : Result := .next (setBit 0 (.reg .c) s)
def execSet0D (s : State) : Result := .next (setBit 0 (.reg .d) s)
def execSet0E (s : State) : Result := .next (setBit 0 (.reg .e) s)
def execSet0H (s : State) : Result := .next (setBit 0 (.reg .h) s)
def execSet0L (s : State) : Result := .next (setBit 0 (.reg .l) s)
def execSet0AtHl (s : State) : Result := .next (setBit 0 .atHl s)
def execSet0A (s : State) : Result := .next (setBit 0 (.reg .a) s)
def execSet1B (s : State) : Result := .next (setBit 1 (.reg .b) s)
def execSet1C (s : State) : Result := .next (setBit 1 (.reg .c) s)
def execSet1D (s : State) : Result := .next (setBit 1 (.reg .d) s)
def execSet1E (s : State) : Result := .next (setBit 1 (.reg .e) s)
def execSet1H (s : State) : Result := .next (setBit 1 (.reg .h) s)
def execSet1L (s : State) : Result := .next (setBit 1 (.reg .l) s)
def execSet1AtHl (s : State) : Result := .next (setBit 1 .atHl s)
def execSet1A (s : State) : Result := .next (setBit 1 (.reg .a) s)
def execSet2B (s : State) : Result := .next (setBit 2 (.reg .b) s)
def execSet2C (s : State) : Result := .next (setBit 2 (.reg .c) s)
def execSet2D (s : State) : Result := .next (setBit 2 (.reg .d) s)
def execSet2E (s : State) : Result := .next (setBit 2 (.reg .e) s)
def execSet2H (s : State) : Result := .next (setBit 2 (.reg .h) s)
def execSet2L (s : State) : Result := .next (setBit 2 (.reg .l) s)
def execSet2AtHl (s : State) : Result := .next (setBit 2 .atHl s)
def execSet2A (s : State) : Result := .next (setBit 2 (.reg .a) s)
def execSet3B (s : State) : Result := .next (setBit 3 (.reg .b) s)
def execSet3C (s : State) : Result := .next (setBit 3 (.reg .c) s)
def execSet3D (s : State) : Result := .next (setBit 3 (.reg .d) s)
def execSet3E (s : State) : Result := .next (setBit 3 (.reg .e) s)
def execSet3H (s : State) : Result := .next (setBit 3 (.reg .h) s)
def execSet3L (s : State) : Result := .next (setBit 3 (.reg .l) s)
def execSet3AtHl (s : State) : Result := .next (setBit 3 .atHl s)
def execSet3A (s : State) : Result := .next (setBit 3 (.reg .a) s)
def execSet4B (s : State) : Result := .next (setBit 4 (.reg .b) s)
def execSet4C (s : State) : Result := .next (setBit 4 (.reg .c) s)
def execSet4D (s : State) : Result := .next (setBit 4 (.reg .d) s)
def execSet4E (s : State) : Result := .next (setBit 4 (.reg .e) s)
def execSet4H (s : State) : Result := .next (setBit 4 (.reg .h) s)
def execSet4L (s : State) : Result := .next (setBit 4 (.reg .l) s)
def execSet4AtHl (s : State) : Result := .next (setBit 4 .atHl s)
def execSet4A (s : State) : Result := .next (setBit 4 (.reg .a) s)
def execSet5B (s : State) : Result := .next (setBit 5 (.reg .b) s)
def execSet5C (s : State) : Result := .next (setBit 5 (.reg .c) s)
def execSet5D (s : State) : Result := .next (setBit 5 (.reg .d) s)
def execSet5E (s : State) : Result := .next (setBit 5 (.reg .e) s)
def execSet5H (s : State) : Result := .next (setBit 5 (.reg .h) s)
def execSet5L (s : State) : Result := .next (setBit 5 (.reg .l) s)
def execSet5AtHl (s : State) : Result := .next (setBit 5 .atHl s)
def execSet5A (s : State) : Result := .next (setBit 5 (.reg .a) s)
def execSet6B (s : State) : Result := .next (setBit 6 (.reg .b) s)
def execSet6C (s : State) : Result := .next (setBit 6 (.reg .c) s)
def execSet6D (s : State) : Result := .next (setBit 6 (.reg .d) s)
def execSet6E (s : State) : Result := .next (setBit 6 (.reg .e) s)
def execSet6H (s : State) : Result := .next (setBit 6 (.reg .h) s)
def execSet6L (s : State) : Result := .next (setBit 6 (.reg .l) s)
def execSet6AtHl (s : State) : Result := .next (setBit 6 .atHl s)
def execSet6A (s : State) : Result := .next (setBit 6 (.reg .a) s)
def execSet7B (s : State) : Result := .next (setBit 7 (.reg .b) s)
def execSet7C (s : State) : Result := .next (setBit 7 (.reg .c) s)
def execSet7D (s : State) : Result := .next (setBit 7 (.reg .d) s)
def execSet7E (s : State) : Result := .next (setBit 7 (.reg .e) s)
def execSet7H (s : State) : Result := .next (setBit 7 (.reg .h) s)
def execSet7L (s : State) : Result := .next (setBit 7 (.reg .l) s)
def execSet7AtHl (s : State) : Result := .next (setBit 7 .atHl s)
def execSet7A (s : State) : Result := .next (setBit 7 (.reg .a) s)

end Sys2Proof.Machine
end

