-- ==== Sys2Proof/Machine/System.lean ====
section
/-! DEFINITION. System and control instructions (46_system.md). -/
namespace Sys2Proof.Machine

/-- HALT (46_system.md R186). -/
def haltEffect (s : State) : State :=
  if s.pending = 0 then { s with runState := .halted }
  else if s.ime = false then { s with haltBug := true }
  else s

/-- STOP (46_system.md R188); its second byte is already fetched. -/
def stopEffect (s : State) : State :=
  if s.cfg.stopResetsDivider then { s with timer := s.timer.writeDiv, runState := .stopped }
  else { s with runState := .stopped }

/-- The rule of 44_rotate_shift_bit.md that the second byte after 0xCB selects (46_system.md R191, 30_encoding.md R78). -/
def cbEffect (op2 : Byte) (s : State) : State :=
  match fieldX op2 with
  | 0 => rot (RotOp.ofField (fieldY op2)) (Loc.ofField (fieldZ op2)) s
  | 1 => testBit (fieldY op2) (Loc.ofField (fieldZ op2)) s
  | 2 => resBit (fieldY op2) (Loc.ofField (fieldZ op2)) s
  | 3 => setBit (fieldY op2) (Loc.ofField (fieldZ op2)) s

/-- The opcode byte of an unassigned opcode (30_encoding.md R80). -/
def unassignedByte : Unassigned → Byte
  | .d3 => 0xD3 | .db => 0xDB | .dd => 0xDD | .e3 => 0xE3 | .e4 => 0xE4 | .eb => 0xEB | .ec => 0xEC | .ed => 0xED
  | .f4 => 0xF4 | .fc => 0xFC | .fd => 0xFD

/-- An unassigned opcode (46_system.md R192): the fault IllegalOpcode, recorded in the state (log 7). -/
def illegal (u : Unassigned) (s : State) : State := s.illegalOpcode (unassignedByte u)

/-- `NOP` (46_system.md R185). -/
def execNop (s : State) : Result := .next (s)

/-- `HALT` (46_system.md R186). -/
def execHalt (s : State) : Result := .next (haltEffect s)

/-- `STOP` (46_system.md R188). -/
def execStop (_x : Byte) (s : State) : Result := .next (stopEffect s)

/-- `DI` (46_system.md R189). -/
def execDi (s : State) : Result := .next ({ s with ime := false, eiPending := false })

/-- `EI` (46_system.md R190). -/
def execEi (s : State) : Result := .next ({ s with eiPending := true })

/-- `PREFIX CB` (46_system.md R191). -/
def execPrefixCb (op2 : Byte) (s : State) : Result := .next (cbEffect op2 s)

/-! The unassigned base opcodes (46_system.md R192). -/

def execUnassignedD3 (s : State) : Result := .next (illegal .d3 s)
def execUnassignedDB (s : State) : Result := .next (illegal .db s)
def execUnassignedDD (s : State) : Result := .next (illegal .dd s)
def execUnassignedE3 (s : State) : Result := .next (illegal .e3 s)
def execUnassignedE4 (s : State) : Result := .next (illegal .e4 s)
def execUnassignedEB (s : State) : Result := .next (illegal .eb s)
def execUnassignedEC (s : State) : Result := .next (illegal .ec s)
def execUnassignedED (s : State) : Result := .next (illegal .ed s)
def execUnassignedF4 (s : State) : Result := .next (illegal .f4 s)
def execUnassignedFC (s : State) : Result := .next (illegal .fc s)
def execUnassignedFD (s : State) : Result := .next (illegal .fd s)

end Sys2Proof.Machine
end

