-- ==== Sys2Proof/Machine/Processor.lean ====
section
/-! DEFINITION. The Processor step (60_exceptions.md R201), the ticks of a T-cycle and the host's moves (R275, R276), and placing an instruction where the next step fetches. -/
namespace Sys2Proof.Machine

/-- End-of-instruction enable (60_exceptions.md R202): `armed` is `eiPending` as it stood at the start of the step. -/
def State.finishInstr (armed : Bool) (s : State) : State :=
  if armed && s.eiPending then { s with ime := true, eiPending := false } else s

/-- The instruction case of `step()` (60_exceptions.md R201): fetch, decode, execute; the T-cycles it took and the state
after it. A step that faults returns 0 and does not arm the enable. -/
def State.instrStep (s : State) : Host.Outcome (Nat × State) Fault Refusal :=
  match s.fetchInstr with
  | (bytes, s1) =>
    match decode bytes with
    | .rejected _ => .refused .undecodedFetch
    | .instr i _ =>
      match exec i s1 with
      | .fault r => .fault r
      | .refused r => .refused r
      | .next s2 =>
        if s2.fault.isSome then .next (0, s2)
        else .next (instrCost s1.cfg i (s1.taken i), s2.finishInstr s.eiPending)

/-- `HaltedStep` (60_exceptions.md R230), less the 4 T-cycles it returns. -/
def State.haltedStep (s : State) : State := if s.pending = 0 then s else { s with runState := .running }

/-- `StoppedStep` (60_exceptions.md R232), less the 0 T-cycles it returns. -/
def State.stoppedStep (s : State) : State := if s.ifl.getLsbD 4 then { s with runState := .running } else s

/-- When a step starts a dispatch (60_exceptions.md R220), the run state and the stage being those of an instruction step. -/
def State.eligible (s : State) : Bool := s.ime && s.pending != 0

/-- `step()` (60_exceptions.md R201): its cases in order; the T-cycles it returns and the state after it. -/
def procStep (s : State) : Host.Outcome (Nat × State) Fault Refusal :=
  if s.fault.isSome then .next (0, s)
  else if s.dispatchStage != .idle then .next (4, s.dispatchCycle)
  else
    match s.runState with
    | .halted => .next (4, s.haltedStep)
    | .stopped => .next (0, s.stoppedStep)
    | .running =>
      if s.eligible then .next (4, State.dispatchCycle { s with dispatchStage := .m1 })
      else s.instrStep

/-! ## Ticks -/

/-- The timer's tick with its interrupt request (60_exceptions.md R242). -/
def State.timerTick (s : State) : State :=
  match s.timer.tick with
  | (t, irq) => if irq then State.requestInterrupt 2 { s with timer := t } else { s with timer := t }

/-- One T-cycle: the timer's tick, then the OAM-DMA engine's (60_exceptions.md R275). Once faulted, a tick changes nothing
(R203). -/
def State.tCycle (s : State) : State := if s.fault.isSome then s else s.timerTick.dmaTick

/-- `n` T-cycles (60_exceptions.md R248, R275). -/
def State.tCycles (n : Nat) (s : State) : State :=
  match n with
  | 0 => s
  | k + 1 => State.tCycles k s.tCycle

/-! ## Host -/

/-- One host action (60_exceptions.md R276). Once faulted, it changes nothing (R203). -/
def State.hostAct (s : State) (act : HostAction) : State :=
  if s.fault.isSome then s
  else
    match act with
    | .requestInterrupt k => s.requestInterrupt k
    | .hblankBlock => s.hblankBlock
    | .setBusByte addr v => { s with bus := { s.bus with mem := s.bus.mem.write addr.toNat v } }
    | .remapBus map => { s with bus := { s.bus with map := map } }

/-- `HostActions()` (60_exceptions.md R275): the next entry of the script, its actions in order. Log 6. -/
def State.hostPhase (s : State) : State :=
  if s.fault.isSome then s
  else
    match s.hostScript with
    | [] => s
    | acts :: rest => acts.foldl State.hostAct { s with hostScript := rest }

/-! ## Placing an instruction at the fetch address -/

/-- Whether the three bytes from `pc` on are plain bus memory and not core registers. -/
def State.plainAtPc (s : State) (pc : Word) : Bool :=
  let ok := fun (addr : Word) => s.coreReg addr == none && s.busKind addr == .plain
  ok pc && ok (pc + 1) && ok (pc + 2)

/-- The state made ready to fetch at PC: running, with nothing that would come before an instruction fetch (a fault, a
dispatch, an eligible interrupt, host actions), the halt bug clear, the bus unlocked, and plain memory at PC. What is
already so is left as it is. Log 8. -/
def State.readyToFetch (s : State) : State :=
  { s with
    fault := none
    dispatchStage := .idle
    dispatchBit := none
    runState := .running
    ime := s.ime && s.pending == 0
    haltBug := false
    dma := if s.dma.locks then { s.dma with active := false } else s.dma
    pc := if s.plainAtPc s.pc then s.pc else 0x0100
    bus := if s.plainAtPc s.pc then s.bus
           else { s.bus with map := { base := 0x0100, size := 3, kind := .plain } :: s.bus.map }
    hostScript := if s.hostScript.headD [] == [] then s.hostScript else [] :: s.hostScript }

/-- Bytes put into the bus contents from an address on. -/
def State.placeBytes (addr : Word) (bytes : List Byte) (s : State) : State :=
  match bytes with
  | [] => s
  | v :: rest => State.placeBytes (addr + 1) rest { s with bus := { s.bus with mem := s.bus.mem.write addr.toNat v } }

end Sys2Proof.Machine
end

