-- ==== Sys2Proof/Machine/Step.lean ====
section
/-! DEFINITION. One step of the machine: one turn of the driver loop (60_exceptions.md R275). -/
namespace Sys2Proof.Machine

/-- One turn of the driver loop: the host's actions, one Processor step, then as many T-cycles as it returned
(60_exceptions.md R275). -/
def step (s : State) : Host.Outcome State Fault Refusal :=
  match procStep s.hostPhase with
  | .next (n, s') => .next (s'.tCycles n)
  | .fault r => .fault r
  | .refused r => .refused r

/-- The state with the instruction of a table word placed where the next step fetches, so that the next step runs it. -/
def State.withFetchWord (s : State) (nbits w : Nat) : State :=
  State.placeBytes s.readyToFetch.pc (tableBytes nbits w) s.readyToFetch

end Sys2Proof.Machine
end

