-- ==== Sys2Proof/Safety.lean ====
section
/-! DEFINITION. What counts as a safe state, the invariant of the machine, and the terms the statements use. -/
namespace Sys2Proof.Machine

/-! ## Safe states -/

/-- A state no fault has been recorded in: only such a state can be the end of a run (60_exceptions.md R203). -/
abbrev State.Safe (s : State) : Prop := s.fault = none

/-! ## The invariant -/

/-- The timer's registers in their ranges (10_state.md R45; 60_exceptions.md R240, R242, R243, R245): `reloadPending` is set
exactly in OVERFLOW_DELAY, where TIMA is 0; the countdown is 0 in NORMAL and 1 to 4 otherwise. -/
abbrev Timer.Inv (t : Timer) : Prop :=
  (t.reloadPending = decide (t.tstate = .overflowDelay)) ∧
  (t.tstate = .normal → t.countdown = 0) ∧
  (t.tstate ≠ .normal → 1 ≤ t.countdown ∧ t.countdown ≤ 4) ∧
  (t.tstate = .overflowDelay → t.tima = 0)

/-- The OAM-DMA engine's counters in their ranges (10_state.md R46, 90_conflicts.md C10): while active fewer than 160 bytes
are copied; a startup runs only in an active engine that has copied nothing; `restarted` lasts no longer than the startup. -/
abbrev OamDma.Inv (x : OamDma) : Prop :=
  x.startup ≤ 8 ∧ x.sub ≤ 3 ∧ x.count ≤ 160 ∧ x.reg = x.source ∧
  (x.active = true → x.count ≤ 159) ∧
  (0 < x.startup → x.active = true ∧ x.count = 0 ∧ x.sub = 0) ∧
  (x.restarted = true → 0 < x.startup)

/-- The HDMA engine's registers (10_state.md R47; 60_exceptions.md R265, R268): the low four bits of both addresses are 0; an
active transfer is an HBlank one with 1 to 128 blocks left; a stopped one is not active. -/
abbrev Hdma.Inv (x : Hdma) : Prop :=
  x.src.extractLsb' 0 4 = 0#4 ∧ x.dst.extractLsb' 0 4 = 0#4 ∧ x.remaining ≤ 128 ∧
  (x.active = true → x.mode = .hblank ∧ 1 ≤ x.remaining) ∧
  (x.stopped = true → x.active = false)

/-- The Processor's control state between steps (10_state.md R29, R30; 60_exceptions.md R218, R221, R223): F's low nibble is
0; a source is chosen only before M5; a dispatch runs only in RUNNING with IME set, and no halt bug is left from its second
cycle on; the halt bug is set only in RUNNING, outside a dispatch past its first cycle. -/
abbrev State.ControlInv (s : State) : Prop :=
  s.f &&& 0x0F = 0 ∧
  (s.dispatchBit ≠ none → s.dispatchStage = .m5) ∧
  (s.dispatchStage ≠ .idle → s.runState = .running ∧ s.ime = true) ∧
  (s.haltBug = true → s.runState = .running ∧ (s.dispatchStage = .idle ∨ s.dispatchStage = .m1))

/-- The invariant of the machine: the control state, the peripherals, and the canonical form of the bus contents. -/
abbrev State.Inv (s : State) : Prop :=
  s.ControlInv ∧ s.timer.Inv ∧ s.dma.Inv ∧ s.hdma.Inv ∧ s.bus.mem.wf = true

/-! ## Terms of the statements -/

/-- The four flags of F, whose low nibble is 0 (10_state.md R23, R24). -/
def HasFlags (t : State) (z n h c : Bool) : Prop :=
  t.flagZ = z ∧ t.flagN = n ∧ t.flagH = h ∧ t.flagC = c ∧ t.f &&& 0x0F = 0

/-- An address whose byte is the Processor's to keep: not locked, no core register, plain memory. -/
abbrev State.PlainCell (s : State) (addr : Word) : Prop :=
  s.busLocked addr = false ∧ s.coreReg addr = none ∧ s.busKind addr = .plain

/-- Every general register outside `regs` keeps its value. -/
def RegsKept (regs : List Reg8) (s t : State) : Prop := ∀ r, r ∉ regs → t.getReg r = s.getReg r

/-- The Processor's control state, the parameters, the host's script and the bus map are unchanged. -/
def ControlKept (s t : State) : Prop :=
  t.runState = s.runState ∧ t.ime = s.ime ∧ t.eiPending = s.eiPending ∧ t.haltBug = s.haltBug ∧
  t.dispatchStage = s.dispatchStage ∧ t.dispatchBit = s.dispatchBit ∧ t.fault = s.fault ∧ t.opAddr = s.opAddr ∧
  t.cfg = s.cfg ∧ t.hostScript = s.hostScript ∧ t.bus.map = s.bus.map

/-- The core's memory-mapped registers and the engines behind them are unchanged. -/
def PeripheralsKept (s t : State) : Prop :=
  t.ie = s.ie ∧ t.ifl = s.ifl ∧ t.timer = s.timer ∧ t.dma = s.dma ∧ t.hdma = s.hdma

/-- Every byte outside the stored ones reads as before. An external address has no byte of its own to compare (its reads are
free values). A store to a core register has that register's effects (20_memory.md R59): then the bus contents outside the
stored bytes are as before, unless the register is HDMA5, whose write may copy blocks (60_exceptions.md R265). -/
def OtherBytesKept (stored : List Word) (s t : State) : Prop :=
  ((∀ addr ∈ stored, s.coreReg addr = none) →
    ∀ x : Word, x ∉ stored → (s.coreReg x ≠ none ∨ s.busKind x ≠ .external) → t.peek x = s.peek x) ∧
  ((∀ addr ∈ stored, s.coreReg addr ≠ some .hdma5) →
    ∀ x : Word, x ∉ stored → t.bus.mem.read x.toNat = s.bus.mem.read x.toNat)

/-- The frame of an instruction that stores nothing: but for the registers `regs` (and F, of which the statement speaks
apart), everything is as before. -/
def NothingElse (regs : List Reg8) (s t : State) : Prop :=
  RegsKept regs s t ∧ t.sp = s.sp ∧ t.pc = s.pc ∧ ControlKept s t ∧ PeripheralsKept s t ∧ OtherBytesKept [] s t

/-- The frame of an instruction that stores the bytes at `stored`. -/
def StoreFrame (stored : List Word) (s t : State) : Prop :=
  ControlKept s t ∧ OtherBytesKept stored s t ∧ ((∀ addr ∈ stored, s.coreReg addr = none) → PeripheralsKept s t)

/-- Memory and the core's memory-mapped registers are those of `u`. -/
def StoredAs (u t : State) : Prop := t.bus = u.bus ∧ PeripheralsKept u t

/-- An instruction that loads the byte at an address into a register and does nothing else. -/
def LoadsByte (i : Instr) (r : Reg8) (addr : State → Word) : Prop :=
  ∀ s, ∃ t, exec i s = .next t ∧ t.getReg r = s.readByte (addr s) ∧ t.f = s.f ∧ NothingElse [r] s t

/-- The effect of storing `v` at `addr`, and nothing else. -/
def StoresOnly (addr : Word) (v : Byte) (s t : State) : Prop :=
  StoredAs (s.memWrite addr v) t ∧ t.f = s.f ∧ t.sp = s.sp ∧ t.pc = s.pc ∧ StoreFrame [addr] s t ∧
  (s.PlainCell addr → t.peek addr = v)

/-- An instruction that stores a byte at an address and does nothing else. -/
def StoresByte (i : Instr) (addr : State → Word) (v : State → Byte) : Prop :=
  ∀ s, ∃ t, exec i s = .next t ∧ StoresOnly (addr s) (v s) s t ∧ RegsKept [] s t

/-- An 8-bit operand takes the value `v`, after it was read, and nothing else changes (F apart). -/
def ModifiesLoc (o : Loc) (v : Byte) (s t : State) : Prop :=
  match o with
  | .reg r => t.getReg r = v ∧ NothingElse [r] s t
  | .atHl =>
    StoredAs (State.memWrite s.hl v (s.afterRead s.hl)) t ∧ RegsKept [] s t ∧ t.sp = s.sp ∧ t.pc = s.pc ∧
    StoreFrame [s.hl] s t ∧ (s.PlainCell s.hl → t.peek s.hl = v)

/-- The registers of a pair. -/
def pairRegs : Reg16 → List Reg8
  | .bc => [.b, .c] | .de => [.d, .e] | .hl => [.h, .l] | .sp => []

/-- Nothing but a register pair, or SP, differs. -/
def PairOnly (p : Reg16) (s t : State) : Prop :=
  RegsKept (pairRegs p) s t ∧ (p ≠ .sp → t.sp = s.sp) ∧ t.f = s.f ∧ t.pc = s.pc ∧ ControlKept s t ∧
  PeripheralsKept s t ∧ OtherBytesKept [] s t

/-- The registers of a pair of PUSH and POP, F apart. -/
def stackRegs : StackReg → List Reg8
  | .bc => [.b, .c] | .de => [.d, .e] | .hl => [.h, .l] | .af => [.a]

/-- A word is pushed: high byte at SP - 1, low byte at SP - 2 (00_scope.md R14); PC apart, nothing else changes. -/
def Pushes (v : Word) (s t : State) : Prop :=
  t.sp = s.sp - 2 ∧ StoredAs (State.memWrite (s.sp - 2) (loByte v) (s.memWrite (s.sp - 1) (hiByte v))) t ∧
  RegsKept [] s t ∧ t.f = s.f ∧ StoreFrame [s.sp - 1, s.sp - 2] s t ∧
  (s.PlainCell (s.sp - 1) → s.PlainCell (s.sp - 2) → t.peek (s.sp - 1) = hiByte v ∧ t.peek (s.sp - 2) = loByte v)

/-- The bits of a rotate, shift or SWAP: the result, bit by bit, and the new carry (44_rotate_shift_bit.md R155 to R162). -/
def RotBits (op : RotOp) (v res : Byte) (c c' : Bool) : Prop :=
  match op with
  | .rlc => c' = v.getLsbD 7 ∧ ∀ i < 8, res.getLsbD i = v.getLsbD ((i + 7) % 8)
  | .rrc => c' = v.getLsbD 0 ∧ ∀ i < 8, res.getLsbD i = v.getLsbD ((i + 1) % 8)
  | .rl => c' = v.getLsbD 7 ∧ ∀ i < 8, res.getLsbD i = if i = 0 then c else v.getLsbD (i - 1)
  | .rr => c' = v.getLsbD 0 ∧ ∀ i < 8, res.getLsbD i = if i = 7 then c else v.getLsbD (i + 1)
  | .sla => c' = v.getLsbD 7 ∧ ∀ i < 8, res.getLsbD i = if i = 0 then false else v.getLsbD (i - 1)
  | .sra => c' = v.getLsbD 0 ∧ ∀ i < 8, res.getLsbD i = if i = 7 then v.getLsbD 7 else v.getLsbD (i + 1)
  | .swap => c' = false ∧ ∀ i < 8, res.getLsbD i = v.getLsbD ((i + 4) % 8)
  | .srl => c' = v.getLsbD 0 ∧ ∀ i < 8, res.getLsbD i = if i = 7 then false else v.getLsbD (i + 1)

/-- The two-digit BCD byte of a number below 100. -/
def bcd (x : Nat) : Byte := BitVec.ofNat 8 (x / 10 * 16 + x % 10)

/-- A condition as the flags decide it (45_control.md R170). -/
def condHolds (cc : Cond) (s : State) : Bool :=
  match cc with
  | .nz => s.flagZ == false
  | .z => s.flagZ == true
  | .nc => s.flagC == false
  | .c => s.flagC == true

/-! ## Fetching -/

/-- A state about to run an instruction: no fault, no dispatch, RUNNING, no eligible interrupt (60_exceptions.md R201). -/
abbrev State.AtInstruction (s : State) : Prop :=
  s.fault = none ∧ s.dispatchStage = .idle ∧ s.runState = .running ∧ s.eligible = false

/-- The Processor's reads from `addr` on, one after another, give the bytes `bytes`. -/
def State.BytesAt (s : State) (addr : Word) (bytes : List Byte) : Prop :=
  match bytes with
  | [] => True
  | v :: rest => s.readByte addr = v ∧ State.BytesAt (s.afterRead addr) (addr + 1) rest

/-- The state after `n` reads from `addr` on (only a read of an external address changes it, 20_memory.md R58). -/
def State.afterReads (s : State) (addr : Word) (n : Nat) : State :=
  match n with
  | 0 => s
  | k + 1 => State.afterReads (s.afterRead addr) (addr + 1) k

/-- The end of a step that ran an instruction (60_exceptions.md R201, R202, R275): a fault stops it; else the enable that was
armed fires, and the T-cycles of the instruction pass. -/
def afterInstr (armed : Bool) (cycles : Nat) (t : State) : State :=
  if t.fault.isSome then t else (t.finishInstr armed).tCycles cycles

/-! ## Engines over several ticks -/

/-- The timer after `n` ticks. -/
def Timer.after (t : Timer) (n : Nat) : Timer :=
  match n with
  | 0 => t
  | k + 1 => (Timer.after t k).tick.1

/-- The edge detector's input falls at the next tick: the timer is enabled and the bits of the divider up to the selected
one are all 1 (60_exceptions.md R241). -/
def Timer.aboutToFall (t : Timer) : Bool :=
  t.tac.getLsbD 2 && decide (t.divider.toNat % 2 ^ (timerSelect t.tac + 1) = 2 ^ (timerSelect t.tac + 1) - 1)

/-- The address that byte `j` of an HDMA transfer starting in this state comes from (60_exceptions.md R267). -/
def State.hdmaFrom (s : State) (j : Nat) : Word := s.hdma.src + BitVec.ofNat 16 j

/-- The VRAM address it goes to, wrapping within VRAM (60_exceptions.md R267). -/
def State.hdmaTo (s : State) (j : Nat) : Word := BitVec.ofNat 16 (0x8000 + (s.hdma.dst.toNat + j) % 8192)

/-- How many of the first `j` bytes come from external addresses: each takes one free value (log 5). -/
def State.hdmaExternals (s : State) (j : Nat) : Nat :=
  match j with
  | 0 => 0
  | i + 1 => State.hdmaExternals s i + if s.coreReg (s.hdmaFrom i) = none ∧ s.busKind (s.hdmaFrom i) = .external then 1 else 0

/-- What byte `j` of an HDMA transfer that starts in `s` with `blocks` blocks to copy leaves at its address in `t`: from plain or
unmapped memory the byte that stood there, or the byte an earlier part of the transfer has put there (a source in VRAM); from
a core register its value, which only HDMA5's block count changes on the way; from an external address the next free value (log 5). -/
def HdmaByte (s t : State) (blocks j : Nat) : Prop :=
  (s.coreReg (s.hdmaFrom j) = none → s.busKind (s.hdmaFrom j) ≠ .external →
    ((∀ i < j, s.hdmaFrom j ≠ s.hdmaTo i) → t.peek (s.hdmaTo j) = s.peek (s.hdmaFrom j)) ∧
    (∀ i < j, s.hdmaFrom j = s.hdmaTo i → t.peek (s.hdmaTo j) = t.peek (s.hdmaTo i))) ∧
  (∀ r, s.coreReg (s.hdmaFrom j) = some r → r ≠ .hdma5 → t.peek (s.hdmaTo j) = s.coreRegByte r) ∧
  (s.coreReg (s.hdmaFrom j) = some .hdma5 →
    (t.peek (s.hdmaTo j)).toNat = (if s.hdma.active then 0 else 128) + (blocks - j / 16 + 127) % 128) ∧
  (s.coreReg (s.hdmaFrom j) = none → s.busKind (s.hdmaFrom j) = .external →
    t.peek (s.hdmaTo j) = Config.busOracle (s.bus.reads + s.hdmaExternals j) (s.hdmaFrom j))

end Sys2Proof.Machine
end

