-- ==== Sys2Proof/Certificates/Slice0/Obligations.lean ====
section
/-! DEFINITION. The statements about the machine, from the numbered rules of spec/. -/
open Sys2Proof Sys2Proof.Machine

/-! ## Encoding -/

/-- Words written out from the spec's encodings (30_encoding.md R71 to R80) decode to the instructions they stand for. -/
def Obligations.DecodeWrittenWords : Prop :=
  decode [0x00] = .instr .nop [] ∧
  decode [0x48] = .instr (.ofLdRegReg .c .b) [] ∧
  decode [0x7E] = .instr (.ofLdRegAtHl .a) [] ∧
  decode [0x74] = .instr (.ofLdAtHlReg .h) [] ∧
  decode [0x3E, 0x3C] = .instr (.ofLdRegN .a 0x3C) [] ∧
  decode [0x36, 0x7F] = .instr (.ldAtHlN 0x7F) [] ∧
  decode [0xFA, 0x23, 0xC1] = .instr (.ldAAtNn 0xC123) [] ∧
  decode [0xE0, 0xFF] = .instr (.ldhAtNA 0xFF) [] ∧
  decode [0x32] = .instr .ldAtHlDecA [] ∧
  decode [0x31, 0xFE, 0xFF] = .instr (.ofLdPairNn .sp 0xFFFE) [] ∧
  decode [0x08, 0x00, 0xC1] = .instr (.ldAtNnSp 0xC100) [] ∧
  decode [0xF5] = .instr (.ofPush .af) [] ∧
  decode [0xD1] = .instr (.ofPop .de) [] ∧
  decode [0x8E] = .instr (.ofAlu .adc .atHl) [] ∧
  decode [0xFE, 0x40] = .instr (.ofAlu .cp (.imm 0x40)) [] ∧
  decode [0x34] = .instr (.ofInc .atHl) [] ∧
  decode [0x2D] = .instr (.ofDec (.reg .l)) [] ∧
  decode [0x27] = .instr .daa [] ∧
  decode [0x39] = .instr (.ofAddHl .sp) [] ∧
  decode [0x1B] = .instr (.ofDecPair .de) [] ∧
  decode [0xF8, 0x08] = .instr (.ldHlSpPlusE 0x08) [] ∧
  decode [0x17] = .instr .rla [] ∧
  decode [0xCB, 0x37] = .instr (.ofRot .swap (.reg .a)) [] ∧
  decode [0xCB, 0x7C] = .instr (.ofBit 7 (.reg .h)) [] ∧
  decode [0xCB, 0x86] = .instr (.ofRes 0 .atHl) [] ∧
  decode [0xCB, 0xCB] = .instr (.ofSet 1 (.reg .e)) [] ∧
  decode [0xD2, 0x00, 0x02] = .instr (.ofJp .nc 0x0200) [] ∧
  decode [0x38, 0x10] = .instr (.ofJr .c 0x10) [] ∧
  decode [0xCC, 0x34, 0x12] = .instr (.ofCall .z 0x1234) [] ∧
  decode [0xC0] = .instr (.ofRet .nz) [] ∧
  decode [0xD9] = .instr .reti [] ∧
  decode [0xEF] = .instr (.ofRst 5) [] ∧
  decode [0x10, 0x00] = .instr (.stop 0x00) [] ∧
  decode [0x76] = .instr .halt [] ∧
  decode [0xFD] = .instr (.ofUnassigned .fd) []

/-- Decoding what the encoder writes for a well-formed instruction gives the instruction back, with every operand, whatever
bytes follow. -/
def Obligations.DecodeOfEncode : Prop :=
  ∀ (i : Instr), i.wellFormed = true → ∀ rest, decode (encode i ++ rest) = .instr i rest

/-- Whatever the decoder reads is a well-formed instruction, and the encoder writes exactly the bytes it was read from: no
bit of an encoding is dropped and no two encodings are one instruction. -/
def Obligations.EncodeOfDecode : Prop :=
  ∀ bytes i rest, decode bytes = .instr i rest → i.wellFormed = true ∧ encode i ++ rest = bytes

/-- The decoder is total on byte sequences of sufficient length (30_encoding.md R83), and rejects exactly the others: the empty
list, and a list that ends before the operand bytes its first byte asks for, which it names; no first byte asks for more than
two, and what follows the operand bytes is left. -/
def Obligations.DecodeRejectsOnlyShort : Prop :=
  (∃ why, decode [] = .rejected why) ∧
  ∀ op rest, operandCount op ≤ 2 ∧
    (operandCount op ≤ rest.length → ∃ i, decode (op :: rest) = .instr i (rest.drop (operandCount op))) ∧
    (rest.length < operandCount op → decode (op :: rest) = .rejected (.missingOperand op))

/-! ## Reset -/

/-- The reset values that 70_reset_and_hazards.md R280 and 10_state.md R26 give (the spec's own decisions D30 and D41), on both
variants, as defaults of the parameter `resetState`; and the reset state for every value of the parameters (00_scope.md R10)
and of what the rule leaves unspecified (the divider, the HDMA addresses), whose masked bits are 0. `State.reset` is the DMG
with the default parameters: log 1 to 5 name the choice. -/
def Obligations.ResetValues : Prop :=
  (∃ divReset src dst bus,
    State.reset = State.resetWith (Config.defaults .dmg) ResetState.defaults divReset src dst bus ∧ bus.mem = [] ∧ bus.map = []) ∧
  (∀ variant, (Config.defaults variant).variant = variant ∧ (Config.defaults variant).stopResetsDivider = true ∧
    (Config.defaults variant).costs = []) ∧
  (∀ variant r, r = ResetState.defaults variant → r.sp = 0xFFFE ∧ r.pc = 0x0100 ∧ r.runState = .running ∧ r.ime = false ∧
    r.eiPending = false ∧ r.ie = 0x00 ∧ r.ifl = 0b00001 ∧ r.tima = 0x00 ∧ r.tma = 0x00 ∧ r.tac = 0) ∧
  (∃ r, r = ResetState.defaults .dmg ∧ r.a = 0x01 ∧ r.f = 0xB0 ∧ r.b = 0x00 ∧ r.c = 0x13 ∧ r.d = 0x00 ∧ r.e = 0xD8 ∧ r.h = 0x01 ∧
    r.l = 0x4D ∧ r.dma = 0xFF) ∧
  (∃ r, r = ResetState.defaults .cgb ∧ r.a = 0x11 ∧ r.f = 0x80 ∧ r.b = 0x00 ∧ r.c = 0x00 ∧ r.d = 0xFF ∧ r.e = 0x56 ∧ r.h = 0x00 ∧
    r.l = 0x0D ∧ r.dma = 0x00) ∧
  ∀ cfg resetState divReset src dst bus, ∃ s r, s = State.resetWith cfg resetState divReset src dst bus ∧
    r = resetState cfg.variant ∧
    s.a = r.a ∧ s.f = r.f &&& 0xF0 ∧ s.b = r.b ∧ s.c = r.c ∧ s.d = r.d ∧ s.e = r.e ∧ s.h = r.h ∧ s.l = r.l ∧ s.sp = r.sp ∧
    s.pc = r.pc ∧ s.runState = r.runState ∧ s.ime = r.ime ∧ s.eiPending = r.eiPending ∧
    s.haltBug = false ∧ s.dispatchStage = .idle ∧ s.dispatchBit = none ∧ s.fault = none ∧
    s.ie = r.ie ∧ s.ifl = r.ifl ∧ s.timer.tima = r.tima ∧ s.timer.tma = r.tma ∧ s.timer.tac = r.tac ∧
    s.timer.tstate = .normal ∧ s.timer.countdown = 0 ∧ s.timer.reloadPending = false ∧
    s.dma.reg = r.dma ∧ s.dma.source = r.dma ∧
    s.dma.active = false ∧ s.dma.count = 0 ∧ s.dma.startup = 0 ∧ s.dma.sub = 0 ∧ s.dma.restarted = false ∧
    s.hdma.active = false ∧ s.hdma.mode = .general ∧ s.hdma.remaining = 0 ∧ s.hdma.stopped = false ∧
    s.timer.divider = divReset ∧ s.hdma.src.toNat = src.toNat / 16 * 16 ∧ s.hdma.dst.toNat = dst.toNat / 16 * 16 ∧
    s.cfg = cfg ∧ s.bus = bus ∧
    (r.tac = 0 → s.peek 0xFF07 = 0xF8) ∧ (r.ifl = 0b00001 → s.peek 0xFF0F = 0xE1) ∧ s.peek 0xFF46 = r.dma ∧
    (cfg.variant = .cgb → s.peek 0xFF55 = 0xFF) ∧
    (r.runState = .running → r.ime = false → s.AtInstruction)

/-- The state after reset meets the invariant, and so does the reset state for all parameters whose bus contents have their
canonical form, whatever the HDMA addresses. -/
def Obligations.ResetMeetsInvariant : Prop :=
  State.reset.Inv ∧
  ∀ cfg resetState divReset src dst bus, bus.mem.wf = true → (State.resetWith cfg resetState divReset src dst bus).Inv

/-! ## Every step -/

/-- THE INVARIANT IS KEPT BY EVERY STEP: F's low nibble stays 0, a dispatch runs only in RUNNING with IME set, the halt bug
is never left over, the timer, the DMA engines and their counters stay in their ranges, and the bus contents keep their
canonical form. -/
def Obligations.StepKeepsInvariant : Prop :=
  ∀ s t : State, s.Inv → step s = .next t → t.Inv

/-- Every step answers a next state, from every state: no instruction, no access and no host action stops the machine or is
refused (20_memory.md R60, 60_exceptions.md R203, R204). That a recorded fault is a next state is the model's choice, log 7. -/
def Obligations.StepAnswersNext : Prop :=
  ∀ s : State, ∃ t, step s = .next t

/-- A STEP RUNS THE DECODED INSTRUCTION: after the host's actions, where an instruction is due and the bytes at PC are those
of a well-formed instruction, the step is that instruction's meaning, run with PC past its bytes, and then the enable and
the T-cycles it took (60_exceptions.md R201, R202, R275). That one step is one turn of the driver loop is the model's choice,
log 6. -/
def Obligations.StepRunsDecodedInstruction : Prop :=
  ∀ (s h : State) (i : Instr), h = s.hostPhase → h.AtInstruction → h.haltBug = false → i.wellFormed = true →
    h.BytesAt h.pc (encode i) →
    ∀ u, u = { h.afterReads h.pc (encode i).length with
               pc := h.pc + BitVec.ofNat 16 (encode i).length, opAddr := h.pc } →
      step s = (match exec i u with
        | .next t => .next (afterInstr h.eiPending (instrCost h.cfg i (h.taken i)) t)
        | .fault r => .fault r
        | .refused r => .refused r)

/-- The halt-bug fetch (46_system.md R187): the opcode byte is read at PC and PC stays, so the operand bytes are read from
the same address on; the flag is consumed. -/
def Obligations.HaltBugFetch : Prop :=
  ∀ (s h : State) (i : Instr) (op : Byte) (operands : List Byte), h = s.hostPhase → h.AtInstruction → h.haltBug = true →
    i.wellFormed = true → encode i = op :: operands → h.readByte h.pc = op → (h.afterRead h.pc).BytesAt h.pc operands →
    ∀ u, u = { (h.afterRead h.pc).afterReads h.pc operands.length with
               pc := h.pc + BitVec.ofNat 16 operands.length, haltBug := false, opAddr := h.pc } →
      step s = (match exec i u with
        | .next t => .next (afterInstr h.eiPending (instrCost h.cfg i (h.taken i)) t)
        | .fault r => .fault r
        | .refused r => .refused r)

/-- IME becomes 1 only in a step that ran an instruction and started with the enable pending, or ran RETI (10_state.md R28,
60_exceptions.md R202, 45_control.md R180). -/
def Obligations.ImeRisesOnlyByEiOrReti : Prop :=
  ∀ s t : State, step s = .next t → s.ime = false → t.ime = true →
    s.hostPhase.AtInstruction ∧ (s.eiPending = true ∨ s.hostPhase.readByte s.pc = 0xD9)

/-- Interrupt-enable latency (70_reset_and_hazards.md R285, 60_exceptions.md R202): EI leaves IME as it was and arms the
enable; the instruction after it ends with IME set, unless it is DI or faults. -/
def Obligations.EnableFollowsNextInstruction : Prop :=
  ∀ s t : State, s.hostPhase.AtInstruction → step s = .next t → t.fault = none →
    (s.eiPending = false → s.hostPhase.readByte s.pc = 0xFB → t.ime = s.ime ∧ t.eiPending = true) ∧
    (s.eiPending = true → s.hostPhase.readByte s.pc ≠ 0xF3 → t.ime = true ∧ t.eiPending = false) ∧
    (s.hostPhase.readByte s.pc = 0xF3 → t.ime = false ∧ t.eiPending = false)

/-- Unassigned opcodes (46_system.md R192): a Processor step records a fault exactly when it reads one as its opcode; the
fault names the opcode and its address, PC stays at the opcode, nothing else changes but the consumed halt-bug flag and the
model's record of the opcode's address, and no T-cycle passes. That the fault is recorded in a next state is the model's
choice, log 7. -/
def Obligations.FaultOnlyFromUnassignedOpcode : Prop :=
  (∀ (s : State) (u : Unassigned), s.AtInstruction → s.readByte s.pc = unassignedByte u →
    procStep s = .next (0, { s.afterRead s.pc with
      fault := some (.illegalOpcode s.pc (unassignedByte u)), haltBug := false, opAddr := s.pc })) ∧
  (∀ (s t : State) (n : Nat), s.fault = none → procStep s = .next (n, t) → t.fault ≠ none →
    s.AtInstruction ∧ ∃ u, s.readByte s.pc = unassignedByte u)

/-- Once faulted, nothing changes: no step, no tick and no host action (60_exceptions.md R203). That the step still answers a
next state is the model's choice, log 7. -/
def Obligations.FaultedMachineStays : Prop :=
  ∀ s : State, s.fault ≠ none →
    procStep s = .next (0, s) ∧ step s = .next s ∧ (∀ n, s.tCycles n = s) ∧ ∀ act, s.hostAct act = s

/-! ## Interrupts -/

/-- TAKING AN INTERRUPT (60_exceptions.md R220, R221, R222, R224). From a state with an eligible interrupt, five Processor
steps of 4 T-cycles each, with nothing in between, end with IME and the enable cleared, the return address pushed high byte
first (that of the HALT under the halt bug), and PC at the vector of the lowest-numbered source that is pending when the high
byte is pushed, or at 0x0000 when none is. On a plain stack the source is the lowest pending one of the start, its IF bit is
cleared, and the pushed bytes are those of the return address; a push into a core register has that register's effects.
Source k has the vector 0x0040 + 8k. -/
def Obligations.DispatchRunsToHandler : Prop :=
  (∀ k : IntSource, k.vector.toNat = 0x0040 + 8 * k.bit) ∧
  IntSource.vblank.bit = 0 ∧ IntSource.lcdStat.bit = 1 ∧ IntSource.timer.bit = 2 ∧ IntSource.serial.bit = 3 ∧
  IntSource.joypad.bit = 4 ∧
  ∀ (s : State) (ret : Word), s.fault = none → s.dispatchStage = .idle → s.runState = .running → s.eligible = true →
    ret = (if s.haltBug then s.pc - 1 else s.pc) →
    ∃ s1 s2 s3 s4 t, procStep s = .next (4, s1) ∧ procStep s1 = .next (4, s2) ∧ procStep s2 = .next (4, s3) ∧
      procStep s3 = .next (4, s4) ∧ procStep s4 = .next (4, t) ∧
      t.ime = false ∧ t.eiPending = false ∧ t.haltBug = false ∧ t.dispatchStage = .idle ∧ t.dispatchBit = none ∧
      t.runState = .running ∧ t.fault = none ∧ t.sp = s.sp - 2 ∧ t.f = s.f ∧ RegsKept [] s t ∧
      t.cfg = s.cfg ∧ t.hostScript = s.hostScript ∧ t.opAddr = s.opAddr ∧
      StoredAs (s.memWrite (s.sp - 1) (hiByte ret)) s3 ∧ StoredAs (State.memWrite (s.sp - 2) (loByte ret) s3) s4 ∧
      t.bus = s4.bus ∧ t.ie = s4.ie ∧ t.timer = s4.timer ∧ t.dma = s4.dma ∧ t.hdma = s4.hdma ∧
      (∀ k, lowestPending s3.pending = some k → t.pc = k.vector ∧ t.ifl = s4.ifl &&& ~~~(1#5 <<< k.bit)) ∧
      (lowestPending s3.pending = none → t.pc = 0x0000 ∧ t.ifl = s4.ifl) ∧
      (s.PlainCell (s.sp - 1) → s.PlainCell (s.sp - 2) →
        t.peek (s.sp - 1) = hiByte ret ∧ t.peek (s.sp - 2) = loByte ret ∧
        (∀ x, x ≠ s.sp - 1 → x ≠ s.sp - 2 → t.bus.mem.read x.toNat = s.bus.mem.read x.toNat) ∧
        ∃ k, lowestPending s.pending = some k ∧ t.pc = k.vector ∧ t.ifl = s.ifl &&& ~~~(1#5 <<< k.bit) ∧
          t.ie = s.ie ∧ t.timer = s.timer ∧ t.dma = s.dma ∧ t.hdma = s.hdma)

/-- A dispatch is interrupted by nothing (60_exceptions.md R223): whatever IME, IE, IF and the run state are, and whatever the
host does, a step continues it with the next M-cycle, keeps the general registers and F, and ends it after the fifth. -/
def Obligations.DispatchIsUninterruptible : Prop :=
  ∀ s : State, s.hostPhase.fault = none → s.dispatchStage ≠ .idle →
    ∃ t, step s = .next t ∧ RegsKept [] s t ∧ t.f = s.f ∧ t.runState = s.runState ∧
      (s.dispatchStage = .m1 → t.dispatchStage = .m2 ∧ t.sp = s.sp ∧ t.ime = s.ime) ∧
      (s.dispatchStage = .m2 → t.dispatchStage = .m3 ∧ t.sp = s.sp ∧ t.pc = s.pc ∧ t.ime = s.ime) ∧
      (s.dispatchStage = .m3 → t.dispatchStage = .m4 ∧ t.sp = s.sp - 1 ∧ t.pc = s.pc ∧ t.ime = s.ime) ∧
      (s.dispatchStage = .m4 → t.dispatchStage = .m5 ∧ t.sp = s.sp - 1 ∧ t.pc = s.pc ∧ t.ime = s.ime) ∧
      (s.dispatchStage = .m5 → t.dispatchStage = .idle ∧ t.sp = s.sp ∧ t.ime = false ∧ t.eiPending = false ∧
        t.pc = (match s.dispatchBit with | some k => k.vector | none => 0x0000))

/-- Priority is fixed (60_exceptions.md R215): of several pending interrupts the lowest-numbered wins, whatever else the state
holds, and it is applied when the dispatch selects its source, at M-cycle 4; an interrupt is pending when its bits of IE and
IF are both 1 (R213). -/
def Obligations.InterruptPriority : Prop :=
  (∀ (p : BitVec 5) (k : IntSource), lowestPending p = some k ↔
    p.getLsbD k.bit = true ∧ ∀ j : IntSource, j.bit < k.bit → p.getLsbD j.bit = false) ∧
  (∀ p : BitVec 5, lowestPending p = none ↔ p = 0) ∧
  (∀ (s : State) (k : IntSource), s.pending.getLsbD k.bit = true ↔ s.ie.getLsbD k.bit = true ∧ s.ifl.getLsbD k.bit = true) ∧
  (∀ s : State, s.dispatchStage = .m4 → s.dispatchCycle.dispatchBit = lowestPending s.pending)

/-- A step in HALTED and one in STOPPED (60_exceptions.md R230, R232): HALTED is left when an interrupt is pending, whatever IME
is, and takes 4 T-cycles either way; STOPPED is left when the joypad interrupt is requested, and takes no T-cycle either way,
so the timer and the DMA engine do not advance. -/
def Obligations.HaltedAndStoppedSteps : Prop :=
  ∀ s : State, s.fault = none → s.dispatchStage = .idle →
    (s.runState = .halted →
      procStep s = .next (4, if s.ie.extractLsb' 0 5 &&& s.ifl = 0 then s else { s with runState := .running })) ∧
    (s.runState = .stopped →
      procStep s = .next (0, if s.ifl.getLsbD 4 = true then { s with runState := .running } else s) ∧
      (s.hostScript = [] → ∃ t, step s = .next t ∧ t.timer = s.timer ∧ t.dma = s.dma))

/-- `requestInterrupt(k)` (60_exceptions.md R216): sets bit k of IF regardless of IME and IE and nothing else; on a bit that
is already set it changes nothing; a k outside 0 to 4 is recorded as a fault (the spec's own decision D29). -/
def Obligations.RequestInterrupt : Prop :=
  ∀ (s : State) (k : Nat),
    (k ≤ 4 → s.requestInterrupt k = { s with ifl := (s.requestInterrupt k).ifl } ∧
      ∀ j < 5, (s.requestInterrupt k).ifl.getLsbD j = (s.ifl.getLsbD j || decide (j = k))) ∧
    (k ≤ 4 → s.ifl.getLsbD k = true → s.requestInterrupt k = s) ∧
    (5 ≤ k → s.requestInterrupt k = { s with fault := some (.badInterruptBit k) })

/-- IE (60_exceptions.md R210): it is read and written whole at 0xFFFF, even while the bus is locked; a read changes nothing and
a write nothing else, and what is pending follows at once. -/
def Obligations.InterruptEnableRegister : Prop :=
  ∀ (s : State) (v : Byte),
    s.readByte 0xFFFF = s.ie ∧ s.afterRead 0xFFFF = s ∧ s.memWrite 0xFFFF v = { s with ie := v } ∧
    ∀ j < 5, (s.memWrite 0xFFFF v).pending.getLsbD j = (v.getLsbD j && s.ifl.getLsbD j)

/-- IF (60_exceptions.md R211, R212): a write to 0xFF0F stores bits 4:0 and changes nothing else; a read gives them with ones in
bits 7:5 and changes nothing, even while the bus is locked. -/
def Obligations.InterruptFlagRegister : Prop :=
  ∀ (s : State) (v : Byte),
    (∀ j < 8, (s.readByte 0xFF0F).getLsbD j = if j < 5 then s.ifl.getLsbD j else true) ∧ s.afterRead 0xFF0F = s ∧
    s.memWrite 0xFF0F v = { s with ifl := (s.memWrite 0xFF0F v).ifl } ∧
    ∀ j < 5, (s.memWrite 0xFF0F v).ifl.getLsbD j = v.getLsbD j

/-! ## Timer -/

/-- One timer tick (60_exceptions.md R241, R242, R243): the divider advances by one; TIMA is incremented exactly once when
the selected divider bit falls while the timer is enabled, and not otherwise; from 0xFF it wraps to 0 and the reload sequence
starts. In OVERFLOW_DELAY an increment is lost, until the tick that ends the countdown: it loads TMA as it is then, requests
the interrupt, enters RELOAD_ACTIVE, and an edge in that same tick increments the value just loaded. RELOAD_ACTIVE counts down
to NORMAL, unless TIMA overflows again. The select values 0 to 3 pick the bits 9, 3, 5 and 7. -/
def Obligations.TimerTick : Prop :=
  (∀ tac : BitVec 3, timerSelect tac =
    (if tac.toNat % 4 = 0 then 9 else if tac.toNat % 4 = 1 then 3 else if tac.toNat % 4 = 2 then 5 else 7)) ∧
  ∀ t : Timer, t.tick.1.divider = t.divider + 1 ∧ t.tick.1.tma = t.tma ∧ t.tick.1.tac = t.tac ∧
    (t.tstate ≠ .overflowDelay → t.tick.2 = false ∧
      (t.aboutToFall = false → t.tick.1.tima = t.tima) ∧
      (t.aboutToFall = true → t.tima ≠ 0xFF → t.tick.1.tima = t.tima + 1) ∧
      (t.aboutToFall = true → t.tima = 0xFF →
        t.tick.1.tima = 0x00 ∧ t.tick.1.tstate = .overflowDelay ∧ t.tick.1.countdown = 4 ∧ t.tick.1.reloadPending = true)) ∧
    (t.tstate = .normal → ¬ (t.aboutToFall = true ∧ t.tima = 0xFF) →
      t.tick.1.tstate = .normal ∧ t.tick.1.countdown = t.countdown ∧ t.tick.1.reloadPending = t.reloadPending) ∧
    (t.tstate = .reloadActive → ¬ (t.aboutToFall = true ∧ t.tima = 0xFF) →
      t.tick.1.reloadPending = t.reloadPending ∧
      (2 ≤ t.countdown → t.tick.1.tstate = .reloadActive ∧ t.tick.1.countdown = t.countdown - 1) ∧
      (t.countdown = 1 → t.tick.1.tstate = .normal ∧ t.tick.1.countdown = 0)) ∧
    (t.tstate = .overflowDelay → 2 ≤ t.countdown →
      t.tick.1.tima = t.tima ∧ t.tick.1.tstate = .overflowDelay ∧ t.tick.1.countdown = t.countdown - 1 ∧
      t.tick.1.reloadPending = t.reloadPending ∧ t.tick.2 = false) ∧
    (t.tstate = .overflowDelay → t.countdown = 1 → t.tick.2 = true ∧ t.tick.1.countdown = 4 ∧
      (t.aboutToFall = false →
        t.tick.1.tima = t.tma ∧ t.tick.1.tstate = .reloadActive ∧ t.tick.1.reloadPending = false) ∧
      (t.aboutToFall = true → t.tma ≠ 0xFF →
        t.tick.1.tima = t.tma + 1 ∧ t.tick.1.tstate = .reloadActive ∧ t.tick.1.reloadPending = false) ∧
      (t.aboutToFall = true → t.tma = 0xFF →
        t.tick.1.tima = 0x00 ∧ t.tick.1.tstate = .overflowDelay ∧ t.tick.1.reloadPending = true))

/-- The reload sequence (60_exceptions.md R240, R242): counting the tick that overflows TIMA as tick 1, TIMA reads 0 and no
interrupt is requested through tick 4; tick 5 loads TMA and requests the timer interrupt; RELOAD_ACTIVE holds through tick 8
and NORMAL is back at the end of tick 9. A T-cycle of the machine is such a tick, and its request sets bit 2 of IF inside it
(R217, R275); without one IF is kept. -/
def Obligations.TimerReloadSequence : Prop :=
  (∀ t : Timer, t.tstate = .normal → t.countdown = 0 → t.reloadPending = false → t.tima = 0xFF → t.aboutToFall = true →
    (∀ n, 1 ≤ n → n ≤ 4 → (t.after n).tima = 0x00 ∧ (t.after n).tstate = .overflowDelay) ∧
    (∀ n < 4, (t.after n).tick.2 = false) ∧ (t.after 4).tick.2 = true ∧
    (∀ n, 5 ≤ n → n ≤ 8 → (t.after n).tima = t.tma ∧ (t.after n).tstate = .reloadActive ∧ (t.after n).tick.2 = false) ∧
    t.after 9 = { t with divider := t.divider + 9, tima := t.tma }) ∧
  ∀ s : State, s.fault = none → s.tCycle.timer = s.timer.tick.1 ∧ (s.timer.tick.2 = false → s.tCycle.ifl = s.ifl) ∧
    (s.timer.tick.2 = true → ∀ j < 5, s.tCycle.ifl.getLsbD j = (s.ifl.getLsbD j || decide (j = 2)))

/-- THE TIMER COUNTS AT ITS RATE (60_exceptions.md R241): enabled and not written to, TIMA is incremented once for every time
the divider passes a multiple of 1024, 16, 64 or 256 (select 0 to 3), for any number of ticks that does not overflow it; a
disabled timer never counts. The T-cycles of the machine are these ticks, one for one (R240, R248, R275), whatever the other
units do. -/
def Obligations.TimerCountsAtItsRate : Prop :=
  (∀ (s : State) (n : Nat), s.fault = none → (s.tCycles n).timer = s.timer.after n) ∧
  ∀ (t : Timer) (n period : Nat), t.tstate = .normal →
    period = (if t.tac.toNat % 4 = 0 then 1024 else if t.tac.toNat % 4 = 1 then 16 else if t.tac.toNat % 4 = 2 then 64 else 256) →
    (t.tac.getLsbD 2 = true → t.tima.toNat + ((t.divider.toNat + n) / period - t.divider.toNat / period) ≤ 255 →
      t.after n =
        { t with
          divider := t.divider + BitVec.ofNat 16 n
          tima := t.tima + BitVec.ofNat 8 ((t.divider.toNat + n) / period - t.divider.toNat / period) }) ∧
    (t.tac.getLsbD 2 = false → t.after n = { t with divider := t.divider + BitVec.ofNat 16 n })

/-- The timer registers as the Processor reads and writes them (60_exceptions.md R244 to R247). Reads have no side effect. A
DIV write clears the divider and increments TIMA if the selected bit was 1 and the timer enabled. A TIMA write takes in
NORMAL, cancels the reload in OVERFLOW_DELAY and is ignored in RELOAD_ACTIVE. A TMA write in RELOAD_ACTIVE also sets TIMA.
A TAC write stores bits 2:0 and increments TIMA if the edge detector's input falls. -/
def Obligations.TimerRegisters : Prop :=
  ∀ (s : State) (v : Byte) (high : Bool), high = (s.timer.tac.getLsbD 2 && s.timer.divider.getLsbD (timerSelect s.timer.tac)) →
    s.readByte 0xFF04 = s.timer.divider.extractLsb' 8 8 ∧ s.readByte 0xFF05 = s.timer.tima ∧
    s.readByte 0xFF06 = s.timer.tma ∧
    (∀ j < 8, (s.readByte 0xFF07).getLsbD j = if j < 3 then s.timer.tac.getLsbD j else true) ∧
    (∀ a ∈ [(0xFF04 : Word), 0xFF05, 0xFF06, 0xFF07], s.afterRead a = s) ∧
    (high = false → s.memWrite 0xFF04 v = { s with timer := { s.timer with divider := 0 } }) ∧
    (high = true → s.memWrite 0xFF04 v = { s with timer := Timer.incrementTima { s.timer with divider := 0 } }) ∧
    (s.timer.tstate = .normal → s.memWrite 0xFF05 v = { s with timer := { s.timer with tima := v } }) ∧
    (s.timer.tstate = .overflowDelay → s.memWrite 0xFF05 v =
      { s with timer := { s.timer with tima := v, tstate := .normal, countdown := 0, reloadPending := false } }) ∧
    (s.timer.tstate = .reloadActive → s.memWrite 0xFF05 v = s) ∧
    (s.timer.tstate ≠ .reloadActive → s.memWrite 0xFF06 v = { s with timer := { s.timer with tma := v } }) ∧
    (s.timer.tstate = .reloadActive → s.memWrite 0xFF06 v = { s with timer := { s.timer with tma := v, tima := v } }) ∧
    (∀ tac : BitVec 3, tac = v.extractLsb' 0 3 → ∀ low : Bool,
      low = !(tac.getLsbD 2 && s.timer.divider.getLsbD (timerSelect tac)) →
      ((high && low) = false → s.memWrite 0xFF07 v = { s with timer := { s.timer with tac := tac } }) ∧
      ((high && low) = true → s.memWrite 0xFF07 v = { s with timer := Timer.incrementTima { s.timer with tac := tac } }))

/-! ## OAM-DMA -/

/-- The bus lock of an OAM-DMA (60_exceptions.md R251, R252, R254): after the write that starts it, the Processor is locked
out of every address below 0xFF00 from the end of the 8th T-cycle to the end of the 648th; a restart while locked keeps the
lock through its startup; addresses from 0xFF00 on are never locked; the transfer is active for 648 T-cycles. -/
def Obligations.OamDmaLockWindow : Prop :=
  ∀ (s : State) (v : Byte) (n : Nat) (a : Word), s.fault = none →
    (State.tCycles n (s.memWrite 0xFF46 v)).busLocked a =
      (decide (a.toNat < 0xFF00) && decide (n < 648) && (decide (8 ≤ n) || s.dma.locks)) ∧
    (State.tCycles n (s.memWrite 0xFF46 v)).dma.active = decide (n < 648) ∧
    (State.tCycles n (s.memWrite 0xFF46 v)).readByte 0xFF46 = v

/-- AN OAM-DMA COPIES ITS PAGE (60_exceptions.md R250, R252, R255). 648 T-cycles after the write of v to 0xFF46, byte i of OAM is
what the unlocked read of source address v : i gave in the 12 + 4i-th T-cycle, after the timer's tick of that T-cycle, for every
source page, be it memory, core registers or external; from plain or unmapped memory, that is the byte that stood there at
the write. No other byte of the bus has changed, and the engine is idle. What a read of an external address gives (the next free
value) is the model's choice, log 5. -/
def Obligations.OamDmaCopiesPage : Prop :=
  ∀ (s t : State) (v : Byte), s.fault = none → t = State.tCycles 648 (s.memWrite 0xFF46 v) →
    (∀ i < 160, s.busKind (0xFE00 + BitVec.ofNat 16 i) = .plain →
      t.peek (0xFE00 + BitVec.ofNat 16 i) =
        (State.tCycles (11 + 4 * i) (s.memWrite 0xFF46 v)).timerTick.coreByte (BitVec.ofNat 16 (v.toNat * 256 + i)) ∧
      (s.coreReg (BitVec.ofNat 16 (v.toNat * 256 + i)) = none → s.busKind (BitVec.ofNat 16 (v.toNat * 256 + i)) ≠ .external →
        t.peek (0xFE00 + BitVec.ofNat 16 i) = s.peek (BitVec.ofNat 16 (v.toNat * 256 + i)))) ∧
    (∀ x : Word, x.toNat < 0xFE00 ∨ 0xFEA0 ≤ x.toNat → t.bus.mem.read x.toNat = s.bus.mem.read x.toNat) ∧
    t.dma.active = false ∧ t.bus.map = s.bus.map ∧ t.ie = s.ie ∧ t.hdma = s.hdma

/-- A locked opcode fetch reads 0xFF, which is `RST 0x38` (20_memory.md R55, R56): the step calls 0x0038. -/
def Obligations.LockedFetchRunsRst38 : Prop :=
  ∀ s : State, s.AtInstruction → s.haltBug = false → s.busLocked s.pc = true →
    ∃ t, procStep s = .next (instrCost s.cfg (.ofRst 7) true, t) ∧ t.pc = 0x0038 ∧ t.sp = s.sp - 2 ∧ t.f = s.f ∧
      RegsKept [] s t ∧
      (s.busLocked (s.sp - 1) = true → s.busLocked (s.sp - 2) = true → t.bus = s.bus ∧ PeripheralsKept s t) ∧
      (s.eiPending = false → t.ime = s.ime)

/-! ## HDMA -/

/-- The HDMA registers (60_exceptions.md R263, R264, R266, R270): on the CGB, 0xFF51 to 0xFF54 write the two addresses with
their masks and read 0xFF, and 0xFF55 reads the block count minus one with bit 7 clear while active; on the DMG none of the
five is a core register. -/
def Obligations.HdmaRegisters : Prop :=
  (∀ s : State, s.cfg.variant = .dmg → s.coreReg 0xFF51 = none ∧ s.coreReg 0xFF52 = none ∧ s.coreReg 0xFF53 = none ∧
    s.coreReg 0xFF54 = none ∧ s.coreReg 0xFF55 = none ∧ s.hblankBlock = s) ∧
  ∀ (s : State) (v : Byte), s.cfg.variant = .cgb →
    s.memWrite 0xFF51 v = { s with hdma := { s.hdma with src := BitVec.ofNat 16 (v.toNat * 256 + s.hdma.src.toNat % 256) } } ∧
    s.memWrite 0xFF52 v =
      { s with hdma := { s.hdma with src := BitVec.ofNat 16 (s.hdma.src.toNat / 256 * 256 + v.toNat / 16 * 16) } } ∧
    s.memWrite 0xFF53 v = { s with hdma := { s.hdma with dst := BitVec.ofNat 13 (v.toNat % 32 * 256 + s.hdma.dst.toNat % 256) } } ∧
    s.memWrite 0xFF54 v =
      { s with hdma := { s.hdma with dst := BitVec.ofNat 13 (s.hdma.dst.toNat / 256 * 256 + v.toNat / 16 * 16) } } ∧
    (∀ a ∈ [(0xFF51 : Word), 0xFF52, 0xFF53, 0xFF54], s.readByte a = 0xFF ∧ s.afterRead a = s) ∧
    s.afterRead 0xFF55 = s ∧ (s.readByte 0xFF55).toNat = (if s.hdma.active then 0 else 128) + (s.hdma.remaining + 127) % 128

/-- A write to HDMA5 (60_exceptions.md R265): bit 7 clear stops an active HBlank transfer and keeps its count, bit 7 set is
then ignored; otherwise bit 7 set starts an HBlank transfer of 1 to 128 blocks and copies nothing yet, and bit 7 clear runs a
general-purpose transfer to its end, which leaves the addresses past the blocks copied and reads 0xFF. -/
def Obligations.Hdma5Write : Prop :=
  ∀ (s : State) (v : Byte) (blocks : Nat), s.cfg.variant = .cgb → blocks = v.toNat % 128 + 1 →
    (s.hdma.active = true → s.hdma.mode = .hblank → v.getLsbD 7 = false →
      s.memWrite 0xFF55 v = { s with hdma := { s.hdma with active := false, stopped := true } }) ∧
    (s.hdma.active = true → s.hdma.mode = .hblank → v.getLsbD 7 = true → s.memWrite 0xFF55 v = s) ∧
    (¬ (s.hdma.active = true ∧ s.hdma.mode = .hblank) → v.getLsbD 7 = true →
      s.memWrite 0xFF55 v = { s with hdma := { s.hdma with remaining := blocks, stopped := false, mode := .hblank, active := true } }) ∧
    (¬ (s.hdma.active = true ∧ s.hdma.mode = .hblank) → v.getLsbD 7 = false → s.hdma.dst.extractLsb' 0 4 = 0#4 →
      (s.memWrite 0xFF55 v).hdma =
        { src := s.hdma.src + BitVec.ofNat 16 (16 * blocks), dst := s.hdma.dst + BitVec.ofNat 13 (16 * blocks),
          active := false, mode := .general, remaining := 0, stopped := false } ∧
      (s.memWrite 0xFF55 v).readByte 0xFF55 = 0xFF)

/-- A GENERAL-PURPOSE HDMA COPIES ITS BLOCKS (60_exceptions.md R265, R267): inside the write to 0xFF55, all 16 x blocks bytes go,
in ascending order, from the source addresses to VRAM, wrapping within VRAM, for every source (`HdmaByte`: memory, VRAM itself,
core registers, external); no other byte of the bus, no other unit and no register of the Processor changes. That a byte from an
external address is the next free value, `Config.busOracle` at the count of such reads, is the model's choice, log 5. -/
def Obligations.GeneralHdmaCopiesBlocks : Prop :=
  ∀ (s t : State) (v : Byte) (n : Nat), s.cfg.variant = .cgb → ¬ (s.hdma.active = true ∧ s.hdma.mode = .hblank) →
    v.getLsbD 7 = false → n = 16 * (v.toNat + 1) → s.hdma.dst.extractLsb' 0 4 = 0#4 → t = s.memWrite 0xFF55 v →
    ((∀ j < n, s.busKind (s.hdmaTo j) = .plain) → ∀ j < n, HdmaByte s t (v.toNat + 1) j) ∧
    (∀ x : Word, (∀ j < n, x ≠ s.hdmaTo j) → t.bus.mem.read x.toNat = s.bus.mem.read x.toNat) ∧
    t.timer = s.timer ∧ t.dma = s.dma ∧ t.ie = s.ie ∧ t.ifl = s.ifl ∧ RegsKept [] s t ∧ t.f = s.f ∧ t.sp = s.sp ∧ t.pc = s.pc ∧
    ControlKept s t

/-- One HBlank block (60_exceptions.md R267, R268): while an HBlank transfer is active, the host's event copies exactly 16
bytes, from any source (`HdmaByte`), advances both addresses by 16, takes one block off the count and ends the transfer at 0;
otherwise it does nothing. No other byte of the bus, no other unit and no register of the Processor changes. That a byte from an
external address is the next free value, `Config.busOracle` at the count of such reads, is the model's choice, log 5. -/
def Obligations.HblankBlock : Prop :=
  ∀ s : State, s.cfg.variant = .cgb →
    (¬ (s.hdma.active = true ∧ s.hdma.mode = .hblank) → s.hblankBlock = s) ∧
    (s.hblankBlock.timer = s.timer ∧ s.hblankBlock.dma = s.dma ∧ s.hblankBlock.ie = s.ie ∧ s.hblankBlock.ifl = s.ifl ∧
      RegsKept [] s s.hblankBlock ∧ s.hblankBlock.f = s.f ∧ s.hblankBlock.sp = s.sp ∧ s.hblankBlock.pc = s.pc ∧
      ControlKept s s.hblankBlock) ∧
    (s.hdma.active = true → s.hdma.mode = .hblank → s.hdma.dst.extractLsb' 0 4 = 0#4 →
      s.hblankBlock.hdma =
        { s.hdma with
          src := s.hdma.src + 16
          dst := s.hdma.dst + 16
          remaining := s.hdma.remaining - 1
          active := decide (s.hdma.remaining - 1 ≠ 0) } ∧
      (∀ x : Word, (∀ j < 16, x ≠ s.hdmaTo j) → s.hblankBlock.bus.mem.read x.toNat = s.bus.mem.read x.toNat) ∧
      ((∀ j < 16, s.busKind (s.hdmaTo j) = .plain) → ∀ j < 16, HdmaByte s s.hblankBlock s.hdma.remaining j))

/-! ## Memory -/

/-- What a Processor read returns, and that it changes nothing (20_memory.md R55, R57, R58, R59, R60): 0xFF while the bus is
locked; a core register's value; the last byte written to plain memory; 0xFF where nothing is mapped; any byte at an external
address, the only read that moves the model (it takes the next free value, log 5). No address from 0xFF00 on is ever locked. -/
def Obligations.ProcessorRead : Prop :=
  ∀ (s : State) (a : Word),
    (0xFF00 ≤ a.toNat → s.busLocked a = false) ∧
    (s.busLocked a = true → s.readByte a = 0xFF ∧ s.afterRead a = s) ∧
    (s.busLocked a = false → s.coreReg a = none → s.busKind a = .plain →
      s.readByte a = s.bus.mem.read a.toNat ∧ s.afterRead a = s) ∧
    (s.busLocked a = false → s.coreReg a = none → s.busKind a = .unmapped → s.readByte a = 0xFF ∧ s.afterRead a = s) ∧
    (s.busLocked a = false → s.coreReg a = none → s.busKind a = .external →
      s.readByte a = Config.busOracle s.bus.reads a ∧
      s.afterRead a = { s with bus := { s.bus with reads := s.bus.reads + 1 } }) ∧
    (∀ r, s.coreReg a = some r → s.readByte a = s.coreRegByte r ∧ s.afterRead a = s ∧
      a ∈ [(0xFF04 : Word), 0xFF05, 0xFF06, 0xFF07, 0xFF0F, 0xFF46, 0xFF51, 0xFF52, 0xFF53, 0xFF54, 0xFF55, 0xFFFF]) ∧
    s.readByte 0xFF46 = s.dma.reg

/-- What a Processor write does (20_memory.md R55, R58, R60): dropped while the bus is locked and where nothing is mapped; in
plain memory the byte is read back, and no other byte, register or control state changes. That a write to an external address
leaves no trace in the model is the model's choice, log 5. -/
def Obligations.ProcessorWrite : Prop :=
  ∀ (s : State) (a : Word) (v : Byte),
    (s.busLocked a = true → s.memWrite a v = s) ∧
    (s.coreReg a = none → s.busKind a = .unmapped → s.memWrite a v = s) ∧
    (s.coreReg a = none → s.busKind a = .external → s.memWrite a v = s) ∧
    (s.PlainCell a → (s.memWrite a v).peek a = v ∧ (s.memWrite a v).readByte a = v) ∧
    StoreFrame [a] s (s.memWrite a v) ∧ RegsKept [] s (s.memWrite a v) ∧
    (s.memWrite a v).f = s.f ∧ (s.memWrite a v).sp = s.sp ∧ (s.memWrite a v).pc = s.pc

/-! ## Registers -/

/-- The register pairs are compositions of their halves, the first-named register high (10_state.md R21), and BC, DE and HL are
the same pairs in PUSH and POP as elsewhere; AF reads and writes F through the mask (R24). -/
def Obligations.RegisterPairs : Prop :=
  ∀ (s : State) (v : Word) (w : Byte),
    (s.getPair .bc).toNat = s.b.toNat * 256 + s.c.toNat ∧ (s.getPair .de).toNat = s.d.toNat * 256 + s.e.toNat ∧
    (s.getPair .hl).toNat = s.h.toNat * 256 + s.l.toNat ∧ s.getPair .sp = s.sp ∧
    s.getStackReg .bc = s.getPair .bc ∧ s.getStackReg .de = s.getPair .de ∧ s.getStackReg .hl = s.getPair .hl ∧
    s.setStackReg .bc v = s.setPair .bc v ∧ s.setStackReg .de v = s.setPair .de v ∧ s.setStackReg .hl v = s.setPair .hl v ∧
    (s.getStackReg .af).toNat = s.a.toNat * 256 + s.f.toNat / 16 * 16 ∧
    (∀ p : Reg16, (s.setPair p v).getPair p = v ∧ PairOnly p s (s.setPair p v)) ∧
    (∀ p : StackReg, (s.setStackReg p v).getStackReg p = (if p = .af then v &&& 0xFFF0 else v)) ∧
    (s.setFlags w).f = w &&& 0xF0 ∧ (s.setStackReg .af v).f = loByte v &&& 0xF0

/-- `LD r,r'` and `LD r,n` (40_load8.md R90, R91): the destination takes the source's value and nothing else changes; a
register loaded from itself changes nothing. -/
def Obligations.LoadRegister : Prop :=
  (∀ (dst src : Reg8) (s : State), ∃ t, exec (.ofLdRegReg dst src) s = .next t ∧ t.getReg dst = s.getReg src ∧ t.f = s.f ∧
    NothingElse [dst] s t) ∧
  (∀ (r : Reg8) (s : State), exec (.ofLdRegReg r r) s = .next s) ∧
  (∀ (r : Reg8) (n : Byte) (s : State), ∃ t, exec (.ofLdRegN r n) s = .next t ∧ t.getReg r = n ∧ t.f = s.f ∧
    NothingElse [r] s t)

/-- The loads from memory (40_load8.md R92, R95, R96, R99, R101, R103): the register takes the byte the Processor reads at the
instruction's address, and nothing else changes. -/
def Obligations.LoadFromMemory : Prop :=
  (∀ r, LoadsByte (.ofLdRegAtHl r) r (fun s => s.hl)) ∧
  LoadsByte .ldAAtBc .a (fun s => s.getPair .bc) ∧
  LoadsByte .ldAAtDe .a (fun s => s.getPair .de) ∧
  (∀ nn, LoadsByte (.ldAAtNn nn) .a (fun _ => nn)) ∧
  (∀ n : Byte, LoadsByte (.ldhAAtN n) .a (fun _ => BitVec.ofNat 16 (0xFF00 + n.toNat))) ∧
  LoadsByte .ldhAAtC .a (fun s => BitVec.ofNat 16 (0xFF00 + s.c.toNat))

/-- The stores to memory (40_load8.md R93, R94, R97, R98, R100, R102, R104): the byte is written at the instruction's address,
every other byte keeps its value, and no register or flag changes. -/
def Obligations.StoreToMemory : Prop :=
  (∀ r, StoresByte (.ofLdAtHlReg r) (fun s => s.hl) (fun s => s.getReg r)) ∧
  (∀ n, StoresByte (.ldAtHlN n) (fun s => s.hl) (fun _ => n)) ∧
  StoresByte .ldAtBcA (fun s => s.getPair .bc) (fun s => s.a) ∧
  StoresByte .ldAtDeA (fun s => s.getPair .de) (fun s => s.a) ∧
  (∀ nn, StoresByte (.ldAtNnA nn) (fun _ => nn) (fun s => s.a)) ∧
  (∀ n : Byte, StoresByte (.ldhAtNA n) (fun _ => BitVec.ofNat 16 (0xFF00 + n.toNat)) (fun s => s.a)) ∧
  StoresByte .ldhAtCA (fun s => BitVec.ofNat 16 (0xFF00 + s.c.toNat)) (fun s => s.a)

/-- `LD A,(HL+)`, `LD A,(HL-)`, `LD (HL+),A`, `LD (HL-),A` (40_load8.md R105 to R108): the access is at the old HL, and HL then
moves by one, wrapping; no flag changes. -/
def Obligations.LoadAndStepHl : Prop :=
  ∀ s : State,
    (∃ t, exec .ldAAtHlInc s = .next t ∧ t.a = s.readByte s.hl ∧ t.hl = s.hl + 1 ∧ t.f = s.f ∧ NothingElse [.a, .h, .l] s t) ∧
    (∃ t, exec .ldAAtHlDec s = .next t ∧ t.a = s.readByte s.hl ∧ t.hl = s.hl - 1 ∧ t.f = s.f ∧ NothingElse [.a, .h, .l] s t) ∧
    (∃ t, exec .ldAtHlIncA s = .next t ∧ StoresOnly s.hl s.a s t ∧ t.hl = s.hl + 1 ∧ RegsKept [.h, .l] s t) ∧
    (∃ t, exec .ldAtHlDecA s = .next t ∧ StoresOnly s.hl s.a s t ∧ t.hl = s.hl - 1 ∧ RegsKept [.h, .l] s t)

/-! ## 16-bit loads and arithmetic -/

/-- `LD rr,nn`, `LD SP,HL`, `INC rr`, `DEC rr` (41_load16.md R110, R114, 43_alu16.md R141, R142): the pair, or SP, takes the new
value mod 2^16, and nothing else changes, no flag either. -/
def Obligations.PairInstructions : Prop :=
  (∀ (p : Reg16) (nn : Word) (s : State), ∃ t, exec (.ofLdPairNn p nn) s = .next t ∧ t.getPair p = nn ∧ PairOnly p s t) ∧
  (∀ s : State, ∃ t, exec .ldSpHl s = .next t ∧ t.sp = s.hl ∧ PairOnly .sp s t) ∧
  (∀ (p : Reg16) (s : State), ∃ t, exec (.ofIncPair p) s = .next t ∧
    (t.getPair p).toNat = ((s.getPair p).toNat + 1) % 65536 ∧ PairOnly p s t) ∧
  (∀ (p : Reg16) (s : State), ∃ t, exec (.ofDecPair p) s = .next t ∧
    (t.getPair p).toNat = ((s.getPair p).toNat + 65535) % 65536 ∧ PairOnly p s t)

/-- `LD (nn),SP` (41_load16.md R111): SP's low byte at nn, then its high byte at nn + 1 (mod 2^16); every other byte, every
register and every flag keeps its value. -/
def Obligations.StoreSp : Prop :=
  ∀ (nn : Word) (s : State), ∃ t, exec (.ldAtNnSp nn) s = .next t ∧
    StoredAs (State.memWrite (nn + 1) (hiByte s.sp) (s.memWrite nn (loByte s.sp))) t ∧
    RegsKept [] s t ∧ t.f = s.f ∧ t.sp = s.sp ∧ t.pc = s.pc ∧ StoreFrame [nn, nn + 1] s t ∧
    (s.PlainCell nn → s.PlainCell (nn + 1) → t.peek nn = loByte s.sp ∧ t.peek (nn + 1) = hiByte s.sp)

/-- `PUSH rr` (41_load16.md R112): the pair is pushed high byte first (AF with F's low nibble 0), SP goes down by 2, and
nothing else changes. -/
def Obligations.PushPair : Prop :=
  ∀ (p : StackReg) (s : State), ∃ t, exec (.ofPush p) s = .next t ∧ Pushes (s.getStackReg p) s t ∧ t.pc = s.pc

/-- `POP rr` (41_load16.md R113): the low byte comes from SP and the high byte from SP + 1, SP goes up by 2; POP AF writes A
and the four flags from bits 7:4 of the low byte; nothing else changes. -/
def Obligations.PopPair : Prop :=
  ∀ (p : StackReg) (s : State), ∃ t w, exec (.ofPop p) s = .next t ∧
    w = mkWord ((s.afterRead s.sp).readByte (s.sp + 1)) (s.readByte s.sp) ∧
    t.getStackReg p = (if p = .af then w &&& 0xFFF0 else w) ∧ t.sp = s.sp + 2 ∧
    (p ≠ .af → t.f = s.f) ∧ (p = .af → t.f = loByte w &&& 0xF0) ∧
    RegsKept (stackRegs p) s t ∧ t.pc = s.pc ∧ ControlKept s t ∧ PeripheralsKept s t ∧ OtherBytesKept [] s t

/-- `ADD SP,e` and `LD HL,SP+e` (43_alu16.md R143, 41_load16.md R115): the sum is signed and wraps mod 2^16; Z and N are 0, H and
C come from the unsigned addition of e to SP's low byte. -/
def Obligations.AddSpOffset : Prop :=
  ∀ (e : Byte) (s : State),
    (∃ t, exec (.addSpE e) s = .next t ∧ (t.sp.toNat : Int) = (s.sp.toNat + e.toInt) % 65536 ∧
      HasFlags t false false (decide (s.sp.toNat % 16 + e.toNat % 16 > 15)) (decide (s.sp.toNat % 256 + e.toNat > 255)) ∧
      RegsKept [] s t ∧ t.pc = s.pc ∧ ControlKept s t ∧ PeripheralsKept s t ∧ OtherBytesKept [] s t) ∧
    (∃ t, exec (.ldHlSpPlusE e) s = .next t ∧ (t.hl.toNat : Int) = (s.sp.toNat + e.toInt) % 65536 ∧
      HasFlags t false false (decide (s.sp.toNat % 16 + e.toNat % 16 > 15)) (decide (s.sp.toNat % 256 + e.toNat > 255)) ∧
      NothingElse [.h, .l] s t)

/-- `ADD HL,rr` (43_alu16.md R140): the sum wraps mod 2^16, Z is kept, N is 0, H and C are the carries out of bits 11 and 15. -/
def Obligations.AddHl : Prop :=
  ∀ (p : Reg16) (s : State), ∃ t, exec (.ofAddHl p) s = .next t ∧
    t.hl.toNat = (s.hl.toNat + (s.getPair p).toNat) % 65536 ∧
    HasFlags t s.flagZ false (decide (s.hl.toNat % 4096 + (s.getPair p).toNat % 4096 > 4095))
      (decide (s.hl.toNat + (s.getPair p).toNat > 65535)) ∧
    NothingElse [.h, .l] s t

/-! ## 8-bit arithmetic -/

/-- `ADD A,s` and `ADC A,s` (42_alu8.md R120, R121, R122), for a register, the byte at HL or an immediate: the sum wraps mod
2^8, Z from the result, N 0, H and C the carries out of bits 3 and 7; nothing else changes. -/
def Obligations.AddWithCarry : Prop :=
  ∀ (src : Source) (s : State),
    (∃ t, exec (.ofAlu .add src) s = .next t ∧ t.a.toNat = (s.a.toNat + (s.sourceByte src).toNat) % 256 ∧
      HasFlags t (decide (t.a.toNat = 0)) false (decide (s.a.toNat % 16 + (s.sourceByte src).toNat % 16 > 15))
        (decide (s.a.toNat + (s.sourceByte src).toNat > 255)) ∧
      NothingElse [.a] s t) ∧
    (∃ t, exec (.ofAlu .adc src) s = .next t ∧
      t.a.toNat = (s.a.toNat + (s.sourceByte src).toNat + s.flagC.toNat) % 256 ∧
      HasFlags t (decide (t.a.toNat = 0)) false
        (decide (s.a.toNat % 16 + (s.sourceByte src).toNat % 16 + s.flagC.toNat > 15))
        (decide (s.a.toNat + (s.sourceByte src).toNat + s.flagC.toNat > 255)) ∧
      NothingElse [.a] s t)

/-- `SUB s`, `SBC A,s` and `CP s` (42_alu8.md R120, R123, R124, R128): the difference wraps mod 2^8, Z from the result, N 1, H
and C the borrows into bits 3 and 7; CP keeps A; nothing else changes. -/
def Obligations.SubtractAndCompare : Prop :=
  ∀ (src : Source) (s : State),
    (∃ t, exec (.ofAlu .sub src) s = .next t ∧ t.a.toNat = (s.a.toNat + 256 - (s.sourceByte src).toNat) % 256 ∧
      HasFlags t (decide (t.a.toNat = 0)) true (decide (s.a.toNat % 16 < (s.sourceByte src).toNat % 16))
        (decide (s.a.toNat < (s.sourceByte src).toNat)) ∧
      NothingElse [.a] s t) ∧
    (∃ t, exec (.ofAlu .sbc src) s = .next t ∧
      t.a.toNat = (s.a.toNat + 512 - (s.sourceByte src).toNat - s.flagC.toNat) % 256 ∧
      HasFlags t (decide (t.a.toNat = 0)) true (decide (s.a.toNat % 16 < (s.sourceByte src).toNat % 16 + s.flagC.toNat))
        (decide (s.a.toNat < (s.sourceByte src).toNat + s.flagC.toNat)) ∧
      NothingElse [.a] s t) ∧
    (∃ t, exec (.ofAlu .cp src) s = .next t ∧ t.a = s.a ∧
      HasFlags t (decide (s.a = s.sourceByte src)) true (decide (s.a.toNat % 16 < (s.sourceByte src).toNat % 16))
        (decide (s.a.toNat < (s.sourceByte src).toNat)) ∧
      NothingElse [] s t)

/-- `AND s`, `XOR s` and `OR s` (42_alu8.md R120, R125, R126, R127), bit by bit: Z from the result, N and C 0, H 1 for AND and 0
for XOR and OR; nothing else changes. -/
def Obligations.Logic : Prop :=
  ∀ (src : Source) (s : State),
    (∃ t, exec (.ofAlu .and src) s = .next t ∧
      (∀ i < 8, t.a.getLsbD i = (s.a.getLsbD i && (s.sourceByte src).getLsbD i)) ∧
      HasFlags t (decide (t.a.toNat = 0)) false true false ∧ NothingElse [.a] s t) ∧
    (∃ t, exec (.ofAlu .xor src) s = .next t ∧
      (∀ i < 8, t.a.getLsbD i = (s.a.getLsbD i != (s.sourceByte src).getLsbD i)) ∧
      HasFlags t (decide (t.a.toNat = 0)) false false false ∧ NothingElse [.a] s t) ∧
    (∃ t, exec (.ofAlu .or src) s = .next t ∧
      (∀ i < 8, t.a.getLsbD i = (s.a.getLsbD i || (s.sourceByte src).getLsbD i)) ∧
      HasFlags t (decide (t.a.toNat = 0)) false false false ∧ NothingElse [.a] s t)

/-- 8-bit `INC` and `DEC` of a register or of the byte at HL (42_alu8.md R129 to R132): the operand moves by one mod 2^8; Z from
the result, N says which, H from the low nibble, C kept; at HL the read and the write are one step. -/
def Obligations.IncDec8 : Prop :=
  ∀ (o : Loc) (s : State) (old : Byte), old = s.locByte o →
    (∃ t res, exec (.ofInc o) s = .next t ∧ res.toNat = (old.toNat + 1) % 256 ∧ ModifiesLoc o res s t ∧
      HasFlags t (decide (old.toNat = 255)) false (decide (old.toNat % 16 = 15)) s.flagC) ∧
    (∃ t res, exec (.ofDec o) s = .next t ∧ res.toNat = (old.toNat + 255) % 256 ∧ ModifiesLoc o res s t ∧
      HasFlags t (decide (old.toNat = 1)) true (decide (old.toNat % 16 = 0)) s.flagC)

/-- `DAA` (42_alu8.md R133), for every A and every combination of flags; Z from the result, N kept, H 0. -/
def Obligations.DecimalAdjust : Prop :=
  ∀ s : State, ∃ t, exec .daa s = .next t ∧ NothingElse [.a] s t ∧
    (s.flagN = false →
      t.a.toNat = (s.a.toNat + (if s.flagC = true ∨ s.a.toNat > 0x99 then 0x60 else 0) +
        (if s.flagH = true ∨ s.a.toNat % 16 > 9 then 0x06 else 0)) % 256 ∧
      HasFlags t (decide (t.a.toNat = 0)) false false (decide (s.flagC = true ∨ s.a.toNat > 0x99))) ∧
    (s.flagN = true →
      t.a.toNat = (s.a.toNat + 256 - (if s.flagC = true then 0x60 else 0) - (if s.flagH = true then 0x06 else 0)) % 256 ∧
      HasFlags t (decide (t.a.toNat = 0)) true false s.flagC)

/-- DAA makes BCD arithmetic right: after ADD or SUB of two BCD bytes, A is the BCD of the sum or difference mod 100 and C is
the decimal carry or borrow (derived from 42_alu8.md R121, R123, R133). -/
def Obligations.BcdArithmetic : Prop :=
  ∀ (s : State) (x y : Nat), x < 100 → y < 100 → s.a = bcd x →
    (∃ t u, exec (.ofAlu .add (.imm (bcd y))) s = .next t ∧ exec .daa t = .next u ∧ u.a = bcd ((x + y) % 100) ∧
      u.flagC = decide (100 ≤ x + y) ∧ u.flagZ = decide ((x + y) % 100 = 0)) ∧
    (∃ t u, exec (.ofAlu .sub (.imm (bcd y))) s = .next t ∧ exec .daa t = .next u ∧ u.a = bcd ((x + 100 - y) % 100) ∧
      u.flagC = decide (x < y) ∧ u.flagZ = decide (x = y))

/-- `CPL`, `SCF` and `CCF` (42_alu8.md R134, R135, R136). -/
def Obligations.ComplementAndCarry : Prop :=
  ∀ s : State,
    (∃ t, exec .cpl s = .next t ∧ (∀ i < 8, t.a.getLsbD i = !s.a.getLsbD i) ∧ HasFlags t s.flagZ true true s.flagC ∧
      NothingElse [.a] s t) ∧
    (∃ t, exec .scf s = .next t ∧ HasFlags t s.flagZ false false true ∧ NothingElse [] s t) ∧
    (∃ t, exec .ccf s = .next t ∧ HasFlags t s.flagZ false false (!s.flagC) ∧ NothingElse [] s t)

/-! ## Rotates, shifts and bits -/

/-- `RLCA`, `RRCA`, `RLA`, `RRA` (44_rotate_shift_bit.md R150 to R153) and the 0xCB rotates, shifts and SWAP on a register or on
the byte at HL (R154 to R162), bit by bit: C is the bit moved out, N and H are 0, and Z is 0 for the accumulator forms and
from the result for the others. -/
def Obligations.RotatesAndShifts : Prop :=
  (∀ (i : Instr) (op : RotOp), (i, op) ∈ [(.rlca, .rlc), (.rrca, .rrc), (.rla, .rl), (.rra, .rr)] →
    ∀ s : State, ∃ t c', exec i s = .next t ∧ RotBits op s.a t.a s.flagC c' ∧ HasFlags t false false false c' ∧
      NothingElse [.a] s t) ∧
  ∀ (op : RotOp) (o : Loc) (s : State), ∃ t res c', exec (.ofRot op o) s = .next t ∧
    RotBits op (s.locByte o) res s.flagC c' ∧ ModifiesLoc o res s t ∧ HasFlags t (decide (res.toNat = 0)) false false c'

/-- `BIT b,o`, `RES b,o` and `SET b,o` (44_rotate_shift_bit.md R163, R164, R165). BIT: Z is the complement of the tested bit, N 0,
H 1, C kept, nothing is written. RES and SET: the one bit is cleared or set, the other seven and every flag are kept. -/
def Obligations.BitInstructions : Prop :=
  ∀ (b : Fin 8) (o : Loc) (s : State),
    (∃ t, exec (.ofBit b o) s = .next t ∧ HasFlags t (!(s.locByte o).getLsbD b.val) false true s.flagC ∧ NothingElse [] s t) ∧
    (∃ t res, exec (.ofRes b o) s = .next t ∧ ModifiesLoc o res s t ∧ t.f = s.f ∧
      ∀ i < 8, res.getLsbD i = if i = b.val then false else (s.locByte o).getLsbD i) ∧
    (∃ t res, exec (.ofSet b o) s = .next t ∧ ModifiesLoc o res s t ∧ t.f = s.f ∧
      ∀ i < 8, res.getLsbD i = if i = b.val then true else (s.locByte o).getLsbD i)

/-! ## Control transfer -/

/-- The jumps (45_control.md R170 to R175): PC takes the target, absolute, HL, or the address after the instruction plus the
signed offset mod 2^16; a condition that does not hold leaves PC after the instruction; nothing else ever changes. -/
def Obligations.Jumps : Prop :=
  ∀ s : State,
    (∀ nn, exec (.jpNn nn) s = .next { s with pc := nn }) ∧
    exec .jpHl s = .next { s with pc := s.hl } ∧
    (∀ e : Byte, ∃ p, exec (.jrE e) s = .next { s with pc := p } ∧ (p.toNat : Int) = (s.pc.toNat + e.toInt) % 65536) ∧
    (∀ cc nn, exec (.ofJp cc nn) s = .next (if condHolds cc s then { s with pc := nn } else s)) ∧
    (∀ cc (e : Byte), ∃ p, exec (.ofJr cc e) s = .next (if condHolds cc s then { s with pc := p } else s) ∧
      (p.toNat : Int) = (s.pc.toNat + e.toInt) % 65536)

/-- `CALL nn`, `CALL cc,nn` and `RST t` (45_control.md R176, R177, R181): the address after the instruction is pushed high byte
first and PC takes the target; a condition that does not hold changes nothing. -/
def Obligations.Calls : Prop :=
  ∀ s : State,
    (∀ nn, ∃ t, exec (.callNn nn) s = .next t ∧ Pushes s.pc s t ∧ t.pc = nn) ∧
    (∀ y : Fin 8, ∃ t, exec (.ofRst y) s = .next t ∧ Pushes s.pc s t ∧ t.pc.toNat = 8 * y.val) ∧
    (∀ cc nn, ∃ t, exec (.ofCall cc nn) s = .next t ∧ (condHolds cc s = false → t = s) ∧
      (condHolds cc s = true → Pushes s.pc s t ∧ t.pc = nn))

/-- `RET`, `RET cc` and `RETI` (45_control.md R178, R179, R180): PC takes the word popped from the stack, low byte at SP, and SP
goes up by 2; RETI also sets IME at once and drops a pending enable; a condition that does not hold changes nothing. -/
def Obligations.Returns : Prop :=
  ∀ (s : State) (w : Word), w = mkWord ((s.afterRead s.sp).readByte (s.sp + 1)) (s.readByte s.sp) →
    (∃ t, exec .ret s = .next t ∧ t.pc = w ∧ t.sp = s.sp + 2 ∧ t.f = s.f ∧ RegsKept [] s t ∧ ControlKept s t ∧
      PeripheralsKept s t ∧ OtherBytesKept [] s t) ∧
    (∀ cc, ∃ t, exec (.ofRet cc) s = .next t ∧ (condHolds cc s = false → t = s) ∧
      (condHolds cc s = true → t.pc = w ∧ t.sp = s.sp + 2 ∧ t.f = s.f ∧ RegsKept [] s t ∧ ControlKept s t ∧
        PeripheralsKept s t ∧ OtherBytesKept [] s t)) ∧
    (∃ t, exec .reti s = .next t ∧ t.pc = w ∧ t.sp = s.sp + 2 ∧ t.ime = true ∧ t.eiPending = false ∧ t.f = s.f ∧
      RegsKept [] s t ∧ ControlKept { s with ime := true, eiPending := false } t ∧ PeripheralsKept s t ∧ OtherBytesKept [] s t)

/-- A call comes back (45_control.md R176, R178): on a stack of plain memory, RET after CALL returns to the instruction after
the call with SP, every register and every flag as before, whatever the target. -/
def Obligations.CallThenReturn : Prop :=
  ∀ (s : State) (nn : Word), s.PlainCell (s.sp - 1) → s.PlainCell (s.sp - 2) →
    ∃ t u, exec (.callNn nn) s = .next t ∧ exec .ret t = .next u ∧ u.pc = s.pc ∧ u.sp = s.sp ∧ u.f = s.f ∧ RegsKept [] s u ∧
      ControlKept s u ∧ PeripheralsKept s u ∧ OtherBytesKept [s.sp - 1, s.sp - 2] s u

/-! ## System -/

/-- NOP, HALT, STOP, DI, EI, the 0xCB prefix and the unassigned opcodes (46_system.md R185, R186, R188 to R192). HALT waits
unless an interrupt is pending, when it sets the halt bug if IME is 0 and does nothing if it is 1. STOP clears the divider as
a DIV write does, where the parameter says so, and stops. The prefix runs the instruction of its second byte. An unassigned
opcode puts PC back and records the fault (in a next state: log 7). -/
def Obligations.SystemInstructions : Prop :=
  ∀ s : State,
    exec .nop s = .next s ∧
    (s.ie.extractLsb' 0 5 &&& s.ifl = 0 → exec .halt s = .next { s with runState := .halted }) ∧
    (s.ie.extractLsb' 0 5 &&& s.ifl ≠ 0 → s.ime = false → exec .halt s = .next { s with haltBug := true }) ∧
    (s.ie.extractLsb' 0 5 &&& s.ifl ≠ 0 → s.ime = true → exec .halt s = .next s) ∧
    (∀ x, s.cfg.stopResetsDivider = true → ∃ t, exec (.stop x) s = .next t ∧
      t = { State.memWrite 0xFF04 0 s with runState := .stopped } ∧ t.timer.divider = 0) ∧
    (∀ x, s.cfg.stopResetsDivider = false → exec (.stop x) s = .next { s with runState := .stopped }) ∧
    exec .di s = .next { s with ime := false, eiPending := false } ∧
    exec .ei s = .next { s with eiPending := true } ∧
    (∀ op2 : Byte, ∃ t, exec (.prefixCb op2) s = .next t ∧ exec (decodeCb op2) s = .next t) ∧
    (∀ u : Unassigned, exec (.ofUnassigned u) s =
      .next { s with pc := s.opAddr, fault := some (.illegalOpcode s.opAddr (unassignedByte u)) })

/-- The default cycle costs of 70_reset_and_hazards.md R291, instruction by instruction, in T-cycles (the first of two numbers
is the cost of a transfer taken, the second of one not taken), where `Config.costs` (log 11) replaces none. -/
def Obligations.CycleCosts : Prop :=
  ∀ (cfg : Config) (taken : Bool), cfg.costs = [] →
    (∀ i ∈ [Instr.nop, .rlca, .rrca, .rla, .rra, .daa, .cpl, .scf, .ccf, .halt, .di, .ei, .jpHl], instrCost cfg i taken = 4) ∧
    (∀ dst src, instrCost cfg (.ofLdRegReg dst src) taken = 4) ∧
    (∀ r n, instrCost cfg (.ofLdRegN r n) taken = 8 ∧ instrCost cfg (.ofLdRegAtHl r) taken = 8 ∧
      instrCost cfg (.ofLdAtHlReg r) taken = 8) ∧
    (∀ n, instrCost cfg (.ldAtHlN n) taken = 12 ∧ instrCost cfg (.ldhAtNA n) taken = 12 ∧ instrCost cfg (.ldhAAtN n) taken = 12 ∧
      instrCost cfg (.ldHlSpPlusE n) taken = 12 ∧ instrCost cfg (.jrE n) taken = 12 ∧ instrCost cfg (.addSpE n) taken = 16 ∧
      instrCost cfg (.stop n) taken = 4) ∧
    (∀ i ∈ [Instr.ldAtBcA, .ldAtDeA, .ldAAtBc, .ldAAtDe, .ldAtHlIncA, .ldAtHlDecA, .ldAAtHlInc, .ldAAtHlDec, .ldhAtCA,
      .ldhAAtC, .ldSpHl], instrCost cfg i taken = 8) ∧
    (∀ nn, instrCost cfg (.ldAtNnA nn) taken = 16 ∧ instrCost cfg (.ldAAtNn nn) taken = 16 ∧
      instrCost cfg (.ldAtNnSp nn) taken = 20 ∧ instrCost cfg (.jpNn nn) taken = 16 ∧ instrCost cfg (.callNn nn) taken = 24) ∧
    (∀ op r, instrCost cfg (.ofAlu op (.reg r)) taken = 4) ∧
    (∀ op n, instrCost cfg (.ofAlu op .atHl) taken = 8 ∧ instrCost cfg (.ofAlu op (.imm n)) taken = 8) ∧
    (∀ r, instrCost cfg (.ofInc (.reg r)) taken = 4 ∧ instrCost cfg (.ofDec (.reg r)) taken = 4) ∧
    instrCost cfg (.ofInc .atHl) taken = 12 ∧ instrCost cfg (.ofDec .atHl) taken = 12 ∧
    (∀ p nn, instrCost cfg (.ofLdPairNn p nn) taken = 12 ∧ instrCost cfg (.ofAddHl p) taken = 8 ∧
      instrCost cfg (.ofIncPair p) taken = 8 ∧ instrCost cfg (.ofDecPair p) taken = 8) ∧
    (∀ p, instrCost cfg (.ofPush p) taken = 16 ∧ instrCost cfg (.ofPop p) taken = 12) ∧
    (∀ cc nn, instrCost cfg (.ofJp cc nn) taken = (if taken then 16 else 12) ∧
      instrCost cfg (.ofCall cc nn) taken = (if taken then 24 else 12)) ∧
    (∀ cc e, instrCost cfg (.ofJr cc e) taken = (if taken then 12 else 8) ∧
      instrCost cfg (.ofRet cc) taken = (if taken then 20 else 8)) ∧
    instrCost cfg .ret taken = 16 ∧ instrCost cfg .reti taken = 16 ∧ (∀ y, instrCost cfg (.ofRst y) taken = 16) ∧
    (∀ op b r, instrCost cfg (.ofRot op (.reg r)) taken = 8 ∧ instrCost cfg (.ofBit b (.reg r)) taken = 8 ∧
      instrCost cfg (.ofRes b (.reg r)) taken = 8 ∧ instrCost cfg (.ofSet b (.reg r)) taken = 8) ∧
    (∀ op b, instrCost cfg (.ofRot op .atHl) taken = 16 ∧ instrCost cfg (.ofBit b .atHl) taken = 12 ∧
      instrCost cfg (.ofRes b .atHl) taken = 16 ∧ instrCost cfg (.ofSet b .atHl) taken = 16)
end

