-- ==== Sys2Proof/Laws/Memory.lean ====
section
/-! SUPPORT. The bus contents: read after write, and that every write keeps the canonical form. -/
namespace Sys2Proof.Machine

/-! ## Read after write -/

theorem Memory.read_erase_same (m : Memory) (k : Nat) : (m.erase k).read k = Memory.blank := by
  induction m with
  | nil => rfl
  | cons cell rest ih =>
    obtain ⟨j, w⟩ := cell
    simp only [Memory.erase, List.filter_cons] at ih ⊢
    by_cases h : j = k <;> simp [h, Memory.read, ih]

theorem Memory.read_erase_other (m : Memory) (k x : Nat) (hx : x ≠ k) : (m.erase k).read x = m.read x := by
  induction m with
  | nil => rfl
  | cons cell rest ih =>
    obtain ⟨j, w⟩ := cell
    simp only [Memory.erase, List.filter_cons] at ih ⊢
    by_cases h : j = k
    · simp [h, Memory.read, ih, Ne.symm hx]
    · simp [h, Memory.read, ih]

/-- An address that no entry has. -/
theorem Memory.insert_read_same (m : Memory) (k : Nat) (v : Byte) (h : ∀ cell ∈ m, cell.1 ≠ k) :
    (m.insert k v).read k = v := by
  induction m with
  | nil => simp [Memory.insert, Memory.read]
  | cons cell rest ih =>
    obtain ⟨j, w⟩ := cell
    have hj : j ≠ k := h (j, w) (by simp)
    unfold Memory.insert
    split
    · simp [Memory.read]
    · simp only [Memory.read, hj, if_false]
      exact ih fun cell hc => h cell (by simp [hc])

theorem Memory.insert_read_other (m : Memory) (k x : Nat) (v : Byte) (hx : x ≠ k) :
    (m.insert k v).read x = m.read x := by
  induction m with
  | nil => simp [Memory.insert, Memory.read, Ne.symm hx]
  | cons cell rest ih =>
    obtain ⟨j, w⟩ := cell
    unfold Memory.insert
    split
    · simp [Memory.read, Ne.symm hx]
    · simp only [Memory.read, ih]

theorem Memory.erase_absent (m : Memory) (k : Nat) : ∀ cell ∈ m.erase k, cell.1 ≠ k := by
  intro cell hc
  simpa using (List.mem_filter.mp hc).2

theorem Memory.read_write_same (m : Memory) (k : Nat) (v : Byte) : (m.write k v).read k = v := by
  unfold Memory.write
  split
  · simp_all [Memory.read_erase_same]
  · exact Memory.insert_read_same _ k v (Memory.erase_absent m k)

theorem Memory.read_write_other (m : Memory) (k x : Nat) (v : Byte) (hx : x ≠ k) : (m.write k v).read x = m.read x := by
  unfold Memory.write
  split
  · exact Memory.read_erase_other m k x hx
  · rw [Memory.insert_read_other _ k x v hx, Memory.read_erase_other m k x hx]

theorem Memory.read_write (m : Memory) (k x : Nat) (v : Byte) : (m.write k v).read x = if x = k then v else m.read x := by
  split
  · simp_all [Memory.read_write_same]
  · exact Memory.read_write_other m k x v ‹_›

/-! ## The canonical form -/

theorem Memory.wfFrom_mono {lo hi : Nat} (h : lo ≤ hi) : ∀ m : Memory, Memory.wfFrom hi m = true → Memory.wfFrom lo m = true
  | [], _ => rfl
  | (j, w) :: rest, hw => by
    simp only [Memory.wfFrom, Bool.and_eq_true, decide_eq_true_eq] at hw ⊢
    exact ⟨⟨⟨by omega, hw.1.1.2⟩, hw.1.2⟩, hw.2⟩

theorem Memory.wfFrom_erase (k : Nat) : ∀ (m : Memory) (lo : Nat), Memory.wfFrom lo m = true → Memory.wfFrom lo (m.erase k) = true
  | [], _, _ => rfl
  | (j, w) :: rest, lo, hw => by
    simp only [Memory.wfFrom, Bool.and_eq_true, decide_eq_true_eq] at hw
    have ih := Memory.wfFrom_erase k rest (j + 1) hw.2
    simp only [Memory.erase, List.filter_cons] at ih ⊢
    split
    · simp only [Memory.wfFrom, Bool.and_eq_true, decide_eq_true_eq]
      exact ⟨hw.1, ih⟩
    · exact Memory.wfFrom_mono (by omega) _ ih

theorem Memory.wfFrom_insert (k : Nat) (v : Byte) (hk : k < 65536) (hv : v ≠ Memory.blank) :
    ∀ (m : Memory) (lo : Nat), lo ≤ k → (∀ cell ∈ m, cell.1 ≠ k) → Memory.wfFrom lo m = true →
      Memory.wfFrom lo (m.insert k v) = true
  | [], lo, hlo, _, _ => by simp [Memory.insert, Memory.wfFrom, hlo, hk, hv]
  | (j, w) :: rest, lo, hlo, habs, hw => by
    have hj : j ≠ k := habs (j, w) (by simp)
    simp only [Memory.wfFrom, Bool.and_eq_true, decide_eq_true_eq] at hw
    unfold Memory.insert
    split
    · simp only [Memory.wfFrom, Bool.and_eq_true, decide_eq_true_eq, bne_iff_ne]
      exact ⟨⟨⟨hlo, hk⟩, hv⟩, ⟨⟨⟨by omega, hw.1.1.2⟩, by simpa using hw.1.2⟩, hw.2⟩⟩
    · simp only [Memory.wfFrom, Bool.and_eq_true, decide_eq_true_eq]
      exact ⟨hw.1, Memory.wfFrom_insert k v hk hv rest (j + 1) (by omega) (fun c hc => habs c (by simp [hc])) hw.2⟩

/-- A write at an address of the 16-bit space keeps the canonical form. -/
theorem Memory.write_wf (m : Memory) (addr : Word) (v : Byte) (h : m.wf = true) : (m.write addr.toNat v).wf = true := by
  unfold Memory.wf Memory.write at *
  split
  · exact Memory.wfFrom_erase _ _ _ h
  · exact Memory.wfFrom_insert _ v addr.isLt ‹_› _ 0 (Nat.zero_le _) (Memory.erase_absent m _) (Memory.wfFrom_erase _ _ _ h)

/-! ## Equal memories are equal data -/

theorem Memory.read_below (x : Nat) : ∀ (m : Memory) (lo : Nat), x < lo → Memory.wfFrom lo m = true → m.read x = Memory.blank
  | [], _, _, _ => rfl
  | (j, w) :: rest, lo, hx, hw => by
    simp only [Memory.wfFrom, Bool.and_eq_true, decide_eq_true_eq] at hw
    have hj : j ≠ x := by omega
    simp only [Memory.read, hj, if_false]
    exact Memory.read_below x rest (j + 1) (by omega) hw.2

/-- Bus contents in canonical form are equal data when they read alike at every address. -/
theorem Memory.ext_of_wf : ∀ m m' : Memory, m.wf = true → m'.wf = true → (∀ x, m.read x = m'.read x) → m = m' := by
  have key : ∀ (m m' : Memory) (lo : Nat), Memory.wfFrom lo m = true → Memory.wfFrom lo m' = true → (∀ x, m.read x = m'.read x) → m = m' := by
    intro m
    induction m with
    | nil =>
      intro m' lo _ h' hr
      cases m' with
      | nil => rfl
      | cons c r =>
        obtain ⟨j, w⟩ := c
        simp only [Memory.wfFrom, Bool.and_eq_true, decide_eq_true_eq] at h'
        have := hr j
        simp [Memory.read] at this
        rw [← this] at h'; simp at h'
    | cons c r ih =>
      obtain ⟨j, w⟩ := c
      intro m' lo h h' hr
      simp only [Memory.wfFrom, Bool.and_eq_true, decide_eq_true_eq] at h
      cases m' with
      | nil =>
        have := hr j
        simp [Memory.read] at this
        rw [this] at h; simp at h
      | cons c' r' =>
        obtain ⟨k, w'⟩ := c'
        simp only [Memory.wfFrom, Bool.and_eq_true, decide_eq_true_eq] at h'
        have hjk : j = k := by
          rcases Nat.lt_trichotomy j k with hlt | heq | hgt
          · have := hr j
            simp only [Memory.read, if_true] at this
            rw [if_neg (by omega), Memory.read_below j r' (k+1) (by omega) h'.2] at this
            rw [this] at h; simp at h
          · exact heq
          · have := hr k
            simp only [Memory.read, if_true] at this
            rw [if_neg (by omega), Memory.read_below k r (j+1) (by omega) h.2] at this
            rw [← this] at h'; simp at h'
        subst hjk
        have hw : w = w' := by have := hr j; simpa [Memory.read] using this
        subst hw
        congr 1
        apply ih r' (j+1) h.2 h'.2
        intro x
        by_cases hx : x < j + 1
        · rw [Memory.read_below x r (j+1) hx h.2, Memory.read_below x r' (j+1) hx h'.2]
        · have := hr x
          simp only [Memory.read] at this
          rwa [if_neg (by omega), if_neg (by omega)] at this
  intro m m' h h' hr
  exact key m m' 0 h h' hr

end Sys2Proof.Machine
end

