-- ==== Sys2Proof/Laws/State.lean ====
section
/-! SUPPORT. What each update of the state leaves and what it sets: one lemma per field, so that no later proof unfolds a record update. -/
namespace Sys2Proof.Machine

/-! `setFlags` writes F only. -/

@[simp] theorem State.setFlags_a (v : Byte) (s : State) : (s.setFlags v).a = s.a := rfl
@[simp] theorem State.setFlags_b (v : Byte) (s : State) : (s.setFlags v).b = s.b := rfl
@[simp] theorem State.setFlags_c (v : Byte) (s : State) : (s.setFlags v).c = s.c := rfl
@[simp] theorem State.setFlags_d (v : Byte) (s : State) : (s.setFlags v).d = s.d := rfl
@[simp] theorem State.setFlags_e (v : Byte) (s : State) : (s.setFlags v).e = s.e := rfl
@[simp] theorem State.setFlags_h (v : Byte) (s : State) : (s.setFlags v).h = s.h := rfl
@[simp] theorem State.setFlags_l (v : Byte) (s : State) : (s.setFlags v).l = s.l := rfl
@[simp] theorem State.setFlags_sp (v : Byte) (s : State) : (s.setFlags v).sp = s.sp := rfl
@[simp] theorem State.setFlags_pc (v : Byte) (s : State) : (s.setFlags v).pc = s.pc := rfl
@[simp] theorem State.setFlags_runState (v : Byte) (s : State) : (s.setFlags v).runState = s.runState := rfl
@[simp] theorem State.setFlags_ime (v : Byte) (s : State) : (s.setFlags v).ime = s.ime := rfl
@[simp] theorem State.setFlags_eiPending (v : Byte) (s : State) : (s.setFlags v).eiPending = s.eiPending := rfl
@[simp] theorem State.setFlags_haltBug (v : Byte) (s : State) : (s.setFlags v).haltBug = s.haltBug := rfl
@[simp] theorem State.setFlags_dispatchStage (v : Byte) (s : State) : (s.setFlags v).dispatchStage = s.dispatchStage := rfl
@[simp] theorem State.setFlags_dispatchBit (v : Byte) (s : State) : (s.setFlags v).dispatchBit = s.dispatchBit := rfl
@[simp] theorem State.setFlags_fault (v : Byte) (s : State) : (s.setFlags v).fault = s.fault := rfl
@[simp] theorem State.setFlags_ie (v : Byte) (s : State) : (s.setFlags v).ie = s.ie := rfl
@[simp] theorem State.setFlags_ifl (v : Byte) (s : State) : (s.setFlags v).ifl = s.ifl := rfl
@[simp] theorem State.setFlags_timer (v : Byte) (s : State) : (s.setFlags v).timer = s.timer := rfl
@[simp] theorem State.setFlags_dma (v : Byte) (s : State) : (s.setFlags v).dma = s.dma := rfl
@[simp] theorem State.setFlags_hdma (v : Byte) (s : State) : (s.setFlags v).hdma = s.hdma := rfl
@[simp] theorem State.setFlags_bus (v : Byte) (s : State) : (s.setFlags v).bus = s.bus := rfl
@[simp] theorem State.setFlags_opAddr (v : Byte) (s : State) : (s.setFlags v).opAddr = s.opAddr := rfl
@[simp] theorem State.setFlags_cfg (v : Byte) (s : State) : (s.setFlags v).cfg = s.cfg := rfl
@[simp] theorem State.setFlags_hostScript (v : Byte) (s : State) : (s.setFlags v).hostScript = s.hostScript := rfl

@[simp] theorem State.setFlags_f (v : Byte) (s : State) : (s.setFlags v).f = v &&& 0xF0 := rfl

/-! `putFlags` writes F only. -/

@[simp] theorem State.putFlags_a (z n h c : Bool) (s : State) : (s.putFlags z n h c).a = s.a := rfl
@[simp] theorem State.putFlags_b (z n h c : Bool) (s : State) : (s.putFlags z n h c).b = s.b := rfl
@[simp] theorem State.putFlags_c (z n h c : Bool) (s : State) : (s.putFlags z n h c).c = s.c := rfl
@[simp] theorem State.putFlags_d (z n h c : Bool) (s : State) : (s.putFlags z n h c).d = s.d := rfl
@[simp] theorem State.putFlags_e (z n h c : Bool) (s : State) : (s.putFlags z n h c).e = s.e := rfl
@[simp] theorem State.putFlags_h (z n h c : Bool) (s : State) : (s.putFlags z n h c).h = s.h := rfl
@[simp] theorem State.putFlags_l (z n h c : Bool) (s : State) : (s.putFlags z n h c).l = s.l := rfl
@[simp] theorem State.putFlags_sp (z n h c : Bool) (s : State) : (s.putFlags z n h c).sp = s.sp := rfl
@[simp] theorem State.putFlags_pc (z n h c : Bool) (s : State) : (s.putFlags z n h c).pc = s.pc := rfl
@[simp] theorem State.putFlags_runState (z n h c : Bool) (s : State) : (s.putFlags z n h c).runState = s.runState := rfl
@[simp] theorem State.putFlags_ime (z n h c : Bool) (s : State) : (s.putFlags z n h c).ime = s.ime := rfl
@[simp] theorem State.putFlags_eiPending (z n h c : Bool) (s : State) : (s.putFlags z n h c).eiPending = s.eiPending := rfl
@[simp] theorem State.putFlags_haltBug (z n h c : Bool) (s : State) : (s.putFlags z n h c).haltBug = s.haltBug := rfl
@[simp] theorem State.putFlags_dispatchStage (z n h c : Bool) (s : State) : (s.putFlags z n h c).dispatchStage = s.dispatchStage := rfl
@[simp] theorem State.putFlags_dispatchBit (z n h c : Bool) (s : State) : (s.putFlags z n h c).dispatchBit = s.dispatchBit := rfl
@[simp] theorem State.putFlags_fault (z n h c : Bool) (s : State) : (s.putFlags z n h c).fault = s.fault := rfl
@[simp] theorem State.putFlags_ie (z n h c : Bool) (s : State) : (s.putFlags z n h c).ie = s.ie := rfl
@[simp] theorem State.putFlags_ifl (z n h c : Bool) (s : State) : (s.putFlags z n h c).ifl = s.ifl := rfl
@[simp] theorem State.putFlags_timer (z n h c : Bool) (s : State) : (s.putFlags z n h c).timer = s.timer := rfl
@[simp] theorem State.putFlags_dma (z n h c : Bool) (s : State) : (s.putFlags z n h c).dma = s.dma := rfl
@[simp] theorem State.putFlags_hdma (z n h c : Bool) (s : State) : (s.putFlags z n h c).hdma = s.hdma := rfl
@[simp] theorem State.putFlags_bus (z n h c : Bool) (s : State) : (s.putFlags z n h c).bus = s.bus := rfl
@[simp] theorem State.putFlags_opAddr (z n h c : Bool) (s : State) : (s.putFlags z n h c).opAddr = s.opAddr := rfl
@[simp] theorem State.putFlags_cfg (z n h c : Bool) (s : State) : (s.putFlags z n h c).cfg = s.cfg := rfl
@[simp] theorem State.putFlags_hostScript (z n h c : Bool) (s : State) : (s.putFlags z n h c).hostScript = s.hostScript := rfl

theorem packFlags_masked (z n h c : Bool) : packFlags z n h c &&& 0xF0 = packFlags z n h c := by
  cases z <;> cases n <;> cases h <;> cases c <;> rfl

@[simp] theorem State.putFlags_f (z n h c : Bool) (s : State) : (s.putFlags z n h c).f = packFlags z n h c :=
  packFlags_masked z n h c

/-- A value written to F through `setFlags` packed from four flags has exactly those flags. -/
theorem hasFlags_of_f (t : State) (z n h c : Bool) (ht : t.f = packFlags z n h c) : HasFlags t z n h c := by
  simp only [HasFlags, State.flagZ, State.flagN, State.flagH, State.flagC, ht]
  cases z <;> cases n <;> cases h <;> cases c <;> decide

theorem and_f0_low (v : Byte) : v &&& 0xF0 &&& 0x0F = 0 := by
  rw [BitVec.and_assoc]; simp

theorem packFlags_low (z n h c : Bool) : packFlags z n h c &&& 0x0F = 0 := by
  cases z <;> cases n <;> cases h <;> cases c <;> rfl

/-! The masks of the HDMA addresses (10_state.md R47). -/

/-- The four low bits are cleared. -/
theorem shiftOut_low {n : Nat} (x : BitVec n) : ((x >>> 4) <<< 4).extractLsb' 0 4 = 0#4 ∧
    ((x >>> 4) <<< 4).toNat = x.toNat / 16 * 16 := by
  have := x.isLt
  refine ⟨?_, ?_⟩
  · apply BitVec.eq_of_getLsbD_eq
    intro i hi
    simp [hi]
  · have le : x.toNat / 16 * 16 < 2 ^ n := by omega
    simp [Nat.shiftRight_eq_div_pow, Nat.shiftLeft_eq, Nat.mod_eq_of_lt le]

/-- A mask whose low four bits are 0 and whose others are 1. -/
theorem and_mask_eq_shift {n : Nat} (x m : BitVec n) (hm : ∀ i < n, m.getLsbD i = decide (4 ≤ i)) :
    x &&& m = (x >>> 4) <<< 4 := by
  apply BitVec.eq_of_getLsbD_eq
  intro i hi
  rw [BitVec.getLsbD_and, hm i hi]
  by_cases h : i < 4
  · simp [h]
  · simp [hi, h, Nat.le_of_not_lt h, show 4 + (i - 4) = i by omega]

/-- The reset value of the HDMA source address, whose bits 3:0 are 0 (10_state.md R47). -/
theorem hdmaSrc_masked (x : BitVec 16) :
    (x &&& 0xFFF0).extractLsb' 0 4 = 0#4 ∧ (x &&& 0xFFF0).toNat = x.toNat / 16 * 16 := by
  rw [and_mask_eq_shift x 0xFFF0 (by decide)]
  exact shiftOut_low x

/-- The reset value of the HDMA destination address, whose bits 3:0 are 0 (10_state.md R47). -/
theorem hdmaDst_masked (x : BitVec 13) :
    (x &&& 0x1FF0).extractLsb' 0 4 = 0#4 ∧ (x &&& 0x1FF0).toNat = x.toNat / 16 * 16 := by
  rw [and_mask_eq_shift x 0x1FF0 (by decide)]
  exact shiftOut_low x

/-! `setReg` writes one general register only. -/

@[simp] theorem State.setReg_f (r : Reg8) (v : Byte) (s : State) : (s.setReg r v).f = s.f := by cases r <;> rfl
@[simp] theorem State.setReg_sp (r : Reg8) (v : Byte) (s : State) : (s.setReg r v).sp = s.sp := by cases r <;> rfl
@[simp] theorem State.setReg_pc (r : Reg8) (v : Byte) (s : State) : (s.setReg r v).pc = s.pc := by cases r <;> rfl
@[simp] theorem State.setReg_runState (r : Reg8) (v : Byte) (s : State) : (s.setReg r v).runState = s.runState := by cases r <;> rfl
@[simp] theorem State.setReg_ime (r : Reg8) (v : Byte) (s : State) : (s.setReg r v).ime = s.ime := by cases r <;> rfl
@[simp] theorem State.setReg_eiPending (r : Reg8) (v : Byte) (s : State) : (s.setReg r v).eiPending = s.eiPending := by cases r <;> rfl
@[simp] theorem State.setReg_haltBug (r : Reg8) (v : Byte) (s : State) : (s.setReg r v).haltBug = s.haltBug := by cases r <;> rfl
@[simp] theorem State.setReg_dispatchStage (r : Reg8) (v : Byte) (s : State) : (s.setReg r v).dispatchStage = s.dispatchStage := by cases r <;> rfl
@[simp] theorem State.setReg_dispatchBit (r : Reg8) (v : Byte) (s : State) : (s.setReg r v).dispatchBit = s.dispatchBit := by cases r <;> rfl
@[simp] theorem State.setReg_fault (r : Reg8) (v : Byte) (s : State) : (s.setReg r v).fault = s.fault := by cases r <;> rfl
@[simp] theorem State.setReg_ie (r : Reg8) (v : Byte) (s : State) : (s.setReg r v).ie = s.ie := by cases r <;> rfl
@[simp] theorem State.setReg_ifl (r : Reg8) (v : Byte) (s : State) : (s.setReg r v).ifl = s.ifl := by cases r <;> rfl
@[simp] theorem State.setReg_timer (r : Reg8) (v : Byte) (s : State) : (s.setReg r v).timer = s.timer := by cases r <;> rfl
@[simp] theorem State.setReg_dma (r : Reg8) (v : Byte) (s : State) : (s.setReg r v).dma = s.dma := by cases r <;> rfl
@[simp] theorem State.setReg_hdma (r : Reg8) (v : Byte) (s : State) : (s.setReg r v).hdma = s.hdma := by cases r <;> rfl
@[simp] theorem State.setReg_bus (r : Reg8) (v : Byte) (s : State) : (s.setReg r v).bus = s.bus := by cases r <;> rfl
@[simp] theorem State.setReg_opAddr (r : Reg8) (v : Byte) (s : State) : (s.setReg r v).opAddr = s.opAddr := by cases r <;> rfl
@[simp] theorem State.setReg_cfg (r : Reg8) (v : Byte) (s : State) : (s.setReg r v).cfg = s.cfg := by cases r <;> rfl
@[simp] theorem State.setReg_hostScript (r : Reg8) (v : Byte) (s : State) : (s.setReg r v).hostScript = s.hostScript := by cases r <;> rfl

@[simp] theorem State.getReg_setReg_same (r : Reg8) (v : Byte) (s : State) : (s.setReg r v).getReg r = v := by
  cases r <;> rfl

theorem State.getReg_setReg_other (r q : Reg8) (h : q ≠ r) (v : Byte) (s : State) :
    (s.setReg r v).getReg q = s.getReg q := by
  cases r <;> cases q <;> first | rfl | exact absurd rfl h

@[simp] theorem State.getReg_setFlags (r : Reg8) (v : Byte) (s : State) : (s.setFlags v).getReg r = s.getReg r := by
  cases r <;> rfl

@[simp] theorem State.getReg_putFlags (r : Reg8) (z n h c : Bool) (s : State) :
    (s.putFlags z n h c).getReg r = s.getReg r := by
  cases r <;> rfl

/-! `setHl` writes H and L only. -/

@[simp] theorem State.setHl_a (v : Word) (s : State) : (s.setHl v).a = s.a := rfl
@[simp] theorem State.setHl_f (v : Word) (s : State) : (s.setHl v).f = s.f := rfl
@[simp] theorem State.setHl_b (v : Word) (s : State) : (s.setHl v).b = s.b := rfl
@[simp] theorem State.setHl_c (v : Word) (s : State) : (s.setHl v).c = s.c := rfl
@[simp] theorem State.setHl_d (v : Word) (s : State) : (s.setHl v).d = s.d := rfl
@[simp] theorem State.setHl_e (v : Word) (s : State) : (s.setHl v).e = s.e := rfl
@[simp] theorem State.setHl_sp (v : Word) (s : State) : (s.setHl v).sp = s.sp := rfl
@[simp] theorem State.setHl_pc (v : Word) (s : State) : (s.setHl v).pc = s.pc := rfl
@[simp] theorem State.setHl_runState (v : Word) (s : State) : (s.setHl v).runState = s.runState := rfl
@[simp] theorem State.setHl_ime (v : Word) (s : State) : (s.setHl v).ime = s.ime := rfl
@[simp] theorem State.setHl_eiPending (v : Word) (s : State) : (s.setHl v).eiPending = s.eiPending := rfl
@[simp] theorem State.setHl_haltBug (v : Word) (s : State) : (s.setHl v).haltBug = s.haltBug := rfl
@[simp] theorem State.setHl_dispatchStage (v : Word) (s : State) : (s.setHl v).dispatchStage = s.dispatchStage := rfl
@[simp] theorem State.setHl_dispatchBit (v : Word) (s : State) : (s.setHl v).dispatchBit = s.dispatchBit := rfl
@[simp] theorem State.setHl_fault (v : Word) (s : State) : (s.setHl v).fault = s.fault := rfl
@[simp] theorem State.setHl_ie (v : Word) (s : State) : (s.setHl v).ie = s.ie := rfl
@[simp] theorem State.setHl_ifl (v : Word) (s : State) : (s.setHl v).ifl = s.ifl := rfl
@[simp] theorem State.setHl_timer (v : Word) (s : State) : (s.setHl v).timer = s.timer := rfl
@[simp] theorem State.setHl_dma (v : Word) (s : State) : (s.setHl v).dma = s.dma := rfl
@[simp] theorem State.setHl_hdma (v : Word) (s : State) : (s.setHl v).hdma = s.hdma := rfl
@[simp] theorem State.setHl_bus (v : Word) (s : State) : (s.setHl v).bus = s.bus := rfl
@[simp] theorem State.setHl_opAddr (v : Word) (s : State) : (s.setHl v).opAddr = s.opAddr := rfl
@[simp] theorem State.setHl_cfg (v : Word) (s : State) : (s.setHl v).cfg = s.cfg := rfl
@[simp] theorem State.setHl_hostScript (v : Word) (s : State) : (s.setHl v).hostScript = s.hostScript := rfl

/-! `setPair` writes one pair only. -/

@[simp] theorem State.setPair_a (p : Reg16) (v : Word) (s : State) : (s.setPair p v).a = s.a := by cases p <;> rfl
@[simp] theorem State.setPair_f (p : Reg16) (v : Word) (s : State) : (s.setPair p v).f = s.f := by cases p <;> rfl
@[simp] theorem State.setPair_pc (p : Reg16) (v : Word) (s : State) : (s.setPair p v).pc = s.pc := by cases p <;> rfl
@[simp] theorem State.setPair_runState (p : Reg16) (v : Word) (s : State) : (s.setPair p v).runState = s.runState := by cases p <;> rfl
@[simp] theorem State.setPair_ime (p : Reg16) (v : Word) (s : State) : (s.setPair p v).ime = s.ime := by cases p <;> rfl
@[simp] theorem State.setPair_eiPending (p : Reg16) (v : Word) (s : State) : (s.setPair p v).eiPending = s.eiPending := by cases p <;> rfl
@[simp] theorem State.setPair_haltBug (p : Reg16) (v : Word) (s : State) : (s.setPair p v).haltBug = s.haltBug := by cases p <;> rfl
@[simp] theorem State.setPair_dispatchStage (p : Reg16) (v : Word) (s : State) : (s.setPair p v).dispatchStage = s.dispatchStage := by cases p <;> rfl
@[simp] theorem State.setPair_dispatchBit (p : Reg16) (v : Word) (s : State) : (s.setPair p v).dispatchBit = s.dispatchBit := by cases p <;> rfl
@[simp] theorem State.setPair_fault (p : Reg16) (v : Word) (s : State) : (s.setPair p v).fault = s.fault := by cases p <;> rfl
@[simp] theorem State.setPair_ie (p : Reg16) (v : Word) (s : State) : (s.setPair p v).ie = s.ie := by cases p <;> rfl
@[simp] theorem State.setPair_ifl (p : Reg16) (v : Word) (s : State) : (s.setPair p v).ifl = s.ifl := by cases p <;> rfl
@[simp] theorem State.setPair_timer (p : Reg16) (v : Word) (s : State) : (s.setPair p v).timer = s.timer := by cases p <;> rfl
@[simp] theorem State.setPair_dma (p : Reg16) (v : Word) (s : State) : (s.setPair p v).dma = s.dma := by cases p <;> rfl
@[simp] theorem State.setPair_hdma (p : Reg16) (v : Word) (s : State) : (s.setPair p v).hdma = s.hdma := by cases p <;> rfl
@[simp] theorem State.setPair_bus (p : Reg16) (v : Word) (s : State) : (s.setPair p v).bus = s.bus := by cases p <;> rfl
@[simp] theorem State.setPair_opAddr (p : Reg16) (v : Word) (s : State) : (s.setPair p v).opAddr = s.opAddr := by cases p <;> rfl
@[simp] theorem State.setPair_cfg (p : Reg16) (v : Word) (s : State) : (s.setPair p v).cfg = s.cfg := by cases p <;> rfl
@[simp] theorem State.setPair_hostScript (p : Reg16) (v : Word) (s : State) : (s.setPair p v).hostScript = s.hostScript := by cases p <;> rfl

/-! `setStackReg` writes one pair only. -/

@[simp] theorem State.setStackReg_sp (p : StackReg) (v : Word) (s : State) : (s.setStackReg p v).sp = s.sp := by cases p <;> rfl
@[simp] theorem State.setStackReg_pc (p : StackReg) (v : Word) (s : State) : (s.setStackReg p v).pc = s.pc := by cases p <;> rfl
@[simp] theorem State.setStackReg_runState (p : StackReg) (v : Word) (s : State) : (s.setStackReg p v).runState = s.runState := by cases p <;> rfl
@[simp] theorem State.setStackReg_ime (p : StackReg) (v : Word) (s : State) : (s.setStackReg p v).ime = s.ime := by cases p <;> rfl
@[simp] theorem State.setStackReg_eiPending (p : StackReg) (v : Word) (s : State) : (s.setStackReg p v).eiPending = s.eiPending := by cases p <;> rfl
@[simp] theorem State.setStackReg_haltBug (p : StackReg) (v : Word) (s : State) : (s.setStackReg p v).haltBug = s.haltBug := by cases p <;> rfl
@[simp] theorem State.setStackReg_dispatchStage (p : StackReg) (v : Word) (s : State) : (s.setStackReg p v).dispatchStage = s.dispatchStage := by cases p <;> rfl
@[simp] theorem State.setStackReg_dispatchBit (p : StackReg) (v : Word) (s : State) : (s.setStackReg p v).dispatchBit = s.dispatchBit := by cases p <;> rfl
@[simp] theorem State.setStackReg_fault (p : StackReg) (v : Word) (s : State) : (s.setStackReg p v).fault = s.fault := by cases p <;> rfl
@[simp] theorem State.setStackReg_ie (p : StackReg) (v : Word) (s : State) : (s.setStackReg p v).ie = s.ie := by cases p <;> rfl
@[simp] theorem State.setStackReg_ifl (p : StackReg) (v : Word) (s : State) : (s.setStackReg p v).ifl = s.ifl := by cases p <;> rfl
@[simp] theorem State.setStackReg_timer (p : StackReg) (v : Word) (s : State) : (s.setStackReg p v).timer = s.timer := by cases p <;> rfl
@[simp] theorem State.setStackReg_dma (p : StackReg) (v : Word) (s : State) : (s.setStackReg p v).dma = s.dma := by cases p <;> rfl
@[simp] theorem State.setStackReg_hdma (p : StackReg) (v : Word) (s : State) : (s.setStackReg p v).hdma = s.hdma := by cases p <;> rfl
@[simp] theorem State.setStackReg_bus (p : StackReg) (v : Word) (s : State) : (s.setStackReg p v).bus = s.bus := by cases p <;> rfl
@[simp] theorem State.setStackReg_opAddr (p : StackReg) (v : Word) (s : State) : (s.setStackReg p v).opAddr = s.opAddr := by cases p <;> rfl
@[simp] theorem State.setStackReg_cfg (p : StackReg) (v : Word) (s : State) : (s.setStackReg p v).cfg = s.cfg := by cases p <;> rfl
@[simp] theorem State.setStackReg_hostScript (p : StackReg) (v : Word) (s : State) : (s.setStackReg p v).hostScript = s.hostScript := by cases p <;> rfl

theorem hiByte_mkWord (hi lo : Byte) : hiByte (mkWord hi lo) = hi := by
  simp only [hiByte, mkWord]
  apply BitVec.eq_of_getLsbD_eq; intro i hi2
  simp only [BitVec.getLsbD_extractLsb', BitVec.getLsbD_append, hi2]
  simp [show ¬ (8 + i < 8) by omega]

theorem loByte_mkWord (hi lo : Byte) : loByte (mkWord hi lo) = lo := by
  simp only [loByte, mkWord]
  apply BitVec.eq_of_getLsbD_eq; intro i hi2
  simp only [BitVec.getLsbD_extractLsb', BitVec.getLsbD_append, hi2]
  simp [hi2]

theorem mkWord_hi_lo (v : Word) : mkWord (hiByte v) (loByte v) = v := by
  simp only [hiByte, loByte, mkWord]
  apply BitVec.eq_of_getLsbD_eq; intro i hi2
  simp only [BitVec.getLsbD_extractLsb', BitVec.getLsbD_append]
  by_cases h : i < 8
  · simp [h]
  · simp [h, show i - 8 < 8 by omega, show 8 + (i-8) = i by omega]

@[simp] theorem State.getPair_setPair (p : Reg16) (v : Word) (s : State) : (s.setPair p v).getPair p = v := by
  cases p <;> first | exact mkWord_hi_lo v | rfl

@[simp] theorem State.hl_setHl (v : Word) (s : State) : (s.setHl v).hl = v := mkWord_hi_lo v

end Sys2Proof.Machine
end

