-- ==== Sys2Proof/Laws/Access.lean ====
section
/-! SUPPORT. Reads and writes of memory: which fields each may change, and that every byte outside a stored one keeps its value. -/
namespace Sys2Proof.Machine

/-! ## What a read may change -/

/-- `t` is `s` but for the count of external reads. -/
def ReadsOnly (s t : State) : Prop := ∃ n, t = { s with bus := { s.bus with reads := n } }

theorem ReadsOnly.refl {s : State} : ReadsOnly s s := ⟨s.bus.reads, Eq.refl _⟩

theorem ReadsOnly.trans {s t u : State} (h1 : ReadsOnly s t) (h2 : ReadsOnly t u) : ReadsOnly s u := by
  obtain ⟨n, h1⟩ := h1
  obtain ⟨m, h2⟩ := h2
  subst h1 h2
  exact ⟨m, Eq.refl _⟩

theorem State.afterBusRead_readsOnly (s : State) (addr : Word) : ReadsOnly s (s.afterBusRead addr) := by
  unfold State.afterBusRead
  split
  · exact ⟨_, Eq.refl _⟩
  · exact ReadsOnly.refl

theorem State.afterCoreRead_readsOnly (s : State) (addr : Word) : ReadsOnly s (s.afterCoreRead addr) := by
  unfold State.afterCoreRead
  split
  · exact ReadsOnly.refl
  · exact s.afterBusRead_readsOnly addr

theorem State.afterRead_readsOnly (s : State) (addr : Word) : ReadsOnly s (s.afterRead addr) := by
  unfold State.afterRead
  split
  · exact ReadsOnly.refl
  · exact s.afterCoreRead_readsOnly addr

theorem State.afterLoc_readsOnly (s : State) (o : Loc) : ReadsOnly s (s.afterLoc o) := by
  cases o
  · exact ReadsOnly.refl
  · exact s.afterRead_readsOnly s.hl

theorem State.afterSource_readsOnly (s : State) (o : Source) : ReadsOnly s (s.afterSource o) := by
  cases o
  · exact ReadsOnly.refl
  · exact s.afterRead_readsOnly s.hl
  · exact ReadsOnly.refl

/-! `afterBusRead` changes no field but the count of external reads. -/

@[simp] theorem State.afterBusRead_a (s : State) (addr : Word) : (s.afterBusRead addr).a = s.a := by
  obtain ⟨n, h⟩ := s.afterBusRead_readsOnly addr; rw [h]
@[simp] theorem State.afterBusRead_f (s : State) (addr : Word) : (s.afterBusRead addr).f = s.f := by
  obtain ⟨n, h⟩ := s.afterBusRead_readsOnly addr; rw [h]
@[simp] theorem State.afterBusRead_b (s : State) (addr : Word) : (s.afterBusRead addr).b = s.b := by
  obtain ⟨n, h⟩ := s.afterBusRead_readsOnly addr; rw [h]
@[simp] theorem State.afterBusRead_c (s : State) (addr : Word) : (s.afterBusRead addr).c = s.c := by
  obtain ⟨n, h⟩ := s.afterBusRead_readsOnly addr; rw [h]
@[simp] theorem State.afterBusRead_d (s : State) (addr : Word) : (s.afterBusRead addr).d = s.d := by
  obtain ⟨n, h⟩ := s.afterBusRead_readsOnly addr; rw [h]
@[simp] theorem State.afterBusRead_e (s : State) (addr : Word) : (s.afterBusRead addr).e = s.e := by
  obtain ⟨n, h⟩ := s.afterBusRead_readsOnly addr; rw [h]
@[simp] theorem State.afterBusRead_h (s : State) (addr : Word) : (s.afterBusRead addr).h = s.h := by
  obtain ⟨n, h⟩ := s.afterBusRead_readsOnly addr; rw [h]
@[simp] theorem State.afterBusRead_l (s : State) (addr : Word) : (s.afterBusRead addr).l = s.l := by
  obtain ⟨n, h⟩ := s.afterBusRead_readsOnly addr; rw [h]
@[simp] theorem State.afterBusRead_sp (s : State) (addr : Word) : (s.afterBusRead addr).sp = s.sp := by
  obtain ⟨n, h⟩ := s.afterBusRead_readsOnly addr; rw [h]
@[simp] theorem State.afterBusRead_pc (s : State) (addr : Word) : (s.afterBusRead addr).pc = s.pc := by
  obtain ⟨n, h⟩ := s.afterBusRead_readsOnly addr; rw [h]
@[simp] theorem State.afterBusRead_runState (s : State) (addr : Word) : (s.afterBusRead addr).runState = s.runState := by
  obtain ⟨n, h⟩ := s.afterBusRead_readsOnly addr; rw [h]
@[simp] theorem State.afterBusRead_ime (s : State) (addr : Word) : (s.afterBusRead addr).ime = s.ime := by
  obtain ⟨n, h⟩ := s.afterBusRead_readsOnly addr; rw [h]
@[simp] theorem State.afterBusRead_eiPending (s : State) (addr : Word) : (s.afterBusRead addr).eiPending = s.eiPending := by
  obtain ⟨n, h⟩ := s.afterBusRead_readsOnly addr; rw [h]
@[simp] theorem State.afterBusRead_haltBug (s : State) (addr : Word) : (s.afterBusRead addr).haltBug = s.haltBug := by
  obtain ⟨n, h⟩ := s.afterBusRead_readsOnly addr; rw [h]
@[simp] theorem State.afterBusRead_dispatchStage (s : State) (addr : Word) : (s.afterBusRead addr).dispatchStage = s.dispatchStage := by
  obtain ⟨n, h⟩ := s.afterBusRead_readsOnly addr; rw [h]
@[simp] theorem State.afterBusRead_dispatchBit (s : State) (addr : Word) : (s.afterBusRead addr).dispatchBit = s.dispatchBit := by
  obtain ⟨n, h⟩ := s.afterBusRead_readsOnly addr; rw [h]
@[simp] theorem State.afterBusRead_fault (s : State) (addr : Word) : (s.afterBusRead addr).fault = s.fault := by
  obtain ⟨n, h⟩ := s.afterBusRead_readsOnly addr; rw [h]
@[simp] theorem State.afterBusRead_ie (s : State) (addr : Word) : (s.afterBusRead addr).ie = s.ie := by
  obtain ⟨n, h⟩ := s.afterBusRead_readsOnly addr; rw [h]
@[simp] theorem State.afterBusRead_ifl (s : State) (addr : Word) : (s.afterBusRead addr).ifl = s.ifl := by
  obtain ⟨n, h⟩ := s.afterBusRead_readsOnly addr; rw [h]
@[simp] theorem State.afterBusRead_timer (s : State) (addr : Word) : (s.afterBusRead addr).timer = s.timer := by
  obtain ⟨n, h⟩ := s.afterBusRead_readsOnly addr; rw [h]
@[simp] theorem State.afterBusRead_dma (s : State) (addr : Word) : (s.afterBusRead addr).dma = s.dma := by
  obtain ⟨n, h⟩ := s.afterBusRead_readsOnly addr; rw [h]
@[simp] theorem State.afterBusRead_hdma (s : State) (addr : Word) : (s.afterBusRead addr).hdma = s.hdma := by
  obtain ⟨n, h⟩ := s.afterBusRead_readsOnly addr; rw [h]
@[simp] theorem State.afterBusRead_opAddr (s : State) (addr : Word) : (s.afterBusRead addr).opAddr = s.opAddr := by
  obtain ⟨n, h⟩ := s.afterBusRead_readsOnly addr; rw [h]
@[simp] theorem State.afterBusRead_cfg (s : State) (addr : Word) : (s.afterBusRead addr).cfg = s.cfg := by
  obtain ⟨n, h⟩ := s.afterBusRead_readsOnly addr; rw [h]
@[simp] theorem State.afterBusRead_hostScript (s : State) (addr : Word) : (s.afterBusRead addr).hostScript = s.hostScript := by
  obtain ⟨n, h⟩ := s.afterBusRead_readsOnly addr; rw [h]
@[simp] theorem State.afterBusRead_mem (s : State) (addr : Word) : (s.afterBusRead addr).bus.mem = s.bus.mem := by
  obtain ⟨n, h⟩ := s.afterBusRead_readsOnly addr; rw [h]
@[simp] theorem State.afterBusRead_map (s : State) (addr : Word) : (s.afterBusRead addr).bus.map = s.bus.map := by
  obtain ⟨n, h⟩ := s.afterBusRead_readsOnly addr; rw [h]

/-! `afterCoreRead` changes no field but the count of external reads. -/

@[simp] theorem State.afterCoreRead_a (s : State) (addr : Word) : (s.afterCoreRead addr).a = s.a := by
  obtain ⟨n, h⟩ := s.afterCoreRead_readsOnly addr; rw [h]
@[simp] theorem State.afterCoreRead_f (s : State) (addr : Word) : (s.afterCoreRead addr).f = s.f := by
  obtain ⟨n, h⟩ := s.afterCoreRead_readsOnly addr; rw [h]
@[simp] theorem State.afterCoreRead_b (s : State) (addr : Word) : (s.afterCoreRead addr).b = s.b := by
  obtain ⟨n, h⟩ := s.afterCoreRead_readsOnly addr; rw [h]
@[simp] theorem State.afterCoreRead_c (s : State) (addr : Word) : (s.afterCoreRead addr).c = s.c := by
  obtain ⟨n, h⟩ := s.afterCoreRead_readsOnly addr; rw [h]
@[simp] theorem State.afterCoreRead_d (s : State) (addr : Word) : (s.afterCoreRead addr).d = s.d := by
  obtain ⟨n, h⟩ := s.afterCoreRead_readsOnly addr; rw [h]
@[simp] theorem State.afterCoreRead_e (s : State) (addr : Word) : (s.afterCoreRead addr).e = s.e := by
  obtain ⟨n, h⟩ := s.afterCoreRead_readsOnly addr; rw [h]
@[simp] theorem State.afterCoreRead_h (s : State) (addr : Word) : (s.afterCoreRead addr).h = s.h := by
  obtain ⟨n, h⟩ := s.afterCoreRead_readsOnly addr; rw [h]
@[simp] theorem State.afterCoreRead_l (s : State) (addr : Word) : (s.afterCoreRead addr).l = s.l := by
  obtain ⟨n, h⟩ := s.afterCoreRead_readsOnly addr; rw [h]
@[simp] theorem State.afterCoreRead_sp (s : State) (addr : Word) : (s.afterCoreRead addr).sp = s.sp := by
  obtain ⟨n, h⟩ := s.afterCoreRead_readsOnly addr; rw [h]
@[simp] theorem State.afterCoreRead_pc (s : State) (addr : Word) : (s.afterCoreRead addr).pc = s.pc := by
  obtain ⟨n, h⟩ := s.afterCoreRead_readsOnly addr; rw [h]
@[simp] theorem State.afterCoreRead_runState (s : State) (addr : Word) : (s.afterCoreRead addr).runState = s.runState := by
  obtain ⟨n, h⟩ := s.afterCoreRead_readsOnly addr; rw [h]
@[simp] theorem State.afterCoreRead_ime (s : State) (addr : Word) : (s.afterCoreRead addr).ime = s.ime := by
  obtain ⟨n, h⟩ := s.afterCoreRead_readsOnly addr; rw [h]
@[simp] theorem State.afterCoreRead_eiPending (s : State) (addr : Word) : (s.afterCoreRead addr).eiPending = s.eiPending := by
  obtain ⟨n, h⟩ := s.afterCoreRead_readsOnly addr; rw [h]
@[simp] theorem State.afterCoreRead_haltBug (s : State) (addr : Word) : (s.afterCoreRead addr).haltBug = s.haltBug := by
  obtain ⟨n, h⟩ := s.afterCoreRead_readsOnly addr; rw [h]
@[simp] theorem State.afterCoreRead_dispatchStage (s : State) (addr : Word) : (s.afterCoreRead addr).dispatchStage = s.dispatchStage := by
  obtain ⟨n, h⟩ := s.afterCoreRead_readsOnly addr; rw [h]
@[simp] theorem State.afterCoreRead_dispatchBit (s : State) (addr : Word) : (s.afterCoreRead addr).dispatchBit = s.dispatchBit := by
  obtain ⟨n, h⟩ := s.afterCoreRead_readsOnly addr; rw [h]
@[simp] theorem State.afterCoreRead_fault (s : State) (addr : Word) : (s.afterCoreRead addr).fault = s.fault := by
  obtain ⟨n, h⟩ := s.afterCoreRead_readsOnly addr; rw [h]
@[simp] theorem State.afterCoreRead_ie (s : State) (addr : Word) : (s.afterCoreRead addr).ie = s.ie := by
  obtain ⟨n, h⟩ := s.afterCoreRead_readsOnly addr; rw [h]
@[simp] theorem State.afterCoreRead_ifl (s : State) (addr : Word) : (s.afterCoreRead addr).ifl = s.ifl := by
  obtain ⟨n, h⟩ := s.afterCoreRead_readsOnly addr; rw [h]
@[simp] theorem State.afterCoreRead_timer (s : State) (addr : Word) : (s.afterCoreRead addr).timer = s.timer := by
  obtain ⟨n, h⟩ := s.afterCoreRead_readsOnly addr; rw [h]
@[simp] theorem State.afterCoreRead_dma (s : State) (addr : Word) : (s.afterCoreRead addr).dma = s.dma := by
  obtain ⟨n, h⟩ := s.afterCoreRead_readsOnly addr; rw [h]
@[simp] theorem State.afterCoreRead_hdma (s : State) (addr : Word) : (s.afterCoreRead addr).hdma = s.hdma := by
  obtain ⟨n, h⟩ := s.afterCoreRead_readsOnly addr; rw [h]
@[simp] theorem State.afterCoreRead_opAddr (s : State) (addr : Word) : (s.afterCoreRead addr).opAddr = s.opAddr := by
  obtain ⟨n, h⟩ := s.afterCoreRead_readsOnly addr; rw [h]
@[simp] theorem State.afterCoreRead_cfg (s : State) (addr : Word) : (s.afterCoreRead addr).cfg = s.cfg := by
  obtain ⟨n, h⟩ := s.afterCoreRead_readsOnly addr; rw [h]
@[simp] theorem State.afterCoreRead_hostScript (s : State) (addr : Word) : (s.afterCoreRead addr).hostScript = s.hostScript := by
  obtain ⟨n, h⟩ := s.afterCoreRead_readsOnly addr; rw [h]
@[simp] theorem State.afterCoreRead_mem (s : State) (addr : Word) : (s.afterCoreRead addr).bus.mem = s.bus.mem := by
  obtain ⟨n, h⟩ := s.afterCoreRead_readsOnly addr; rw [h]
@[simp] theorem State.afterCoreRead_map (s : State) (addr : Word) : (s.afterCoreRead addr).bus.map = s.bus.map := by
  obtain ⟨n, h⟩ := s.afterCoreRead_readsOnly addr; rw [h]

/-! `afterRead` changes no field but the count of external reads. -/

@[simp] theorem State.afterRead_a (s : State) (addr : Word) : (s.afterRead addr).a = s.a := by
  obtain ⟨n, h⟩ := s.afterRead_readsOnly addr; rw [h]
@[simp] theorem State.afterRead_f (s : State) (addr : Word) : (s.afterRead addr).f = s.f := by
  obtain ⟨n, h⟩ := s.afterRead_readsOnly addr; rw [h]
@[simp] theorem State.afterRead_b (s : State) (addr : Word) : (s.afterRead addr).b = s.b := by
  obtain ⟨n, h⟩ := s.afterRead_readsOnly addr; rw [h]
@[simp] theorem State.afterRead_c (s : State) (addr : Word) : (s.afterRead addr).c = s.c := by
  obtain ⟨n, h⟩ := s.afterRead_readsOnly addr; rw [h]
@[simp] theorem State.afterRead_d (s : State) (addr : Word) : (s.afterRead addr).d = s.d := by
  obtain ⟨n, h⟩ := s.afterRead_readsOnly addr; rw [h]
@[simp] theorem State.afterRead_e (s : State) (addr : Word) : (s.afterRead addr).e = s.e := by
  obtain ⟨n, h⟩ := s.afterRead_readsOnly addr; rw [h]
@[simp] theorem State.afterRead_h (s : State) (addr : Word) : (s.afterRead addr).h = s.h := by
  obtain ⟨n, h⟩ := s.afterRead_readsOnly addr; rw [h]
@[simp] theorem State.afterRead_l (s : State) (addr : Word) : (s.afterRead addr).l = s.l := by
  obtain ⟨n, h⟩ := s.afterRead_readsOnly addr; rw [h]
@[simp] theorem State.afterRead_sp (s : State) (addr : Word) : (s.afterRead addr).sp = s.sp := by
  obtain ⟨n, h⟩ := s.afterRead_readsOnly addr; rw [h]
@[simp] theorem State.afterRead_pc (s : State) (addr : Word) : (s.afterRead addr).pc = s.pc := by
  obtain ⟨n, h⟩ := s.afterRead_readsOnly addr; rw [h]
@[simp] theorem State.afterRead_runState (s : State) (addr : Word) : (s.afterRead addr).runState = s.runState := by
  obtain ⟨n, h⟩ := s.afterRead_readsOnly addr; rw [h]
@[simp] theorem State.afterRead_ime (s : State) (addr : Word) : (s.afterRead addr).ime = s.ime := by
  obtain ⟨n, h⟩ := s.afterRead_readsOnly addr; rw [h]
@[simp] theorem State.afterRead_eiPending (s : State) (addr : Word) : (s.afterRead addr).eiPending = s.eiPending := by
  obtain ⟨n, h⟩ := s.afterRead_readsOnly addr; rw [h]
@[simp] theorem State.afterRead_haltBug (s : State) (addr : Word) : (s.afterRead addr).haltBug = s.haltBug := by
  obtain ⟨n, h⟩ := s.afterRead_readsOnly addr; rw [h]
@[simp] theorem State.afterRead_dispatchStage (s : State) (addr : Word) : (s.afterRead addr).dispatchStage = s.dispatchStage := by
  obtain ⟨n, h⟩ := s.afterRead_readsOnly addr; rw [h]
@[simp] theorem State.afterRead_dispatchBit (s : State) (addr : Word) : (s.afterRead addr).dispatchBit = s.dispatchBit := by
  obtain ⟨n, h⟩ := s.afterRead_readsOnly addr; rw [h]
@[simp] theorem State.afterRead_fault (s : State) (addr : Word) : (s.afterRead addr).fault = s.fault := by
  obtain ⟨n, h⟩ := s.afterRead_readsOnly addr; rw [h]
@[simp] theorem State.afterRead_ie (s : State) (addr : Word) : (s.afterRead addr).ie = s.ie := by
  obtain ⟨n, h⟩ := s.afterRead_readsOnly addr; rw [h]
@[simp] theorem State.afterRead_ifl (s : State) (addr : Word) : (s.afterRead addr).ifl = s.ifl := by
  obtain ⟨n, h⟩ := s.afterRead_readsOnly addr; rw [h]
@[simp] theorem State.afterRead_timer (s : State) (addr : Word) : (s.afterRead addr).timer = s.timer := by
  obtain ⟨n, h⟩ := s.afterRead_readsOnly addr; rw [h]
@[simp] theorem State.afterRead_dma (s : State) (addr : Word) : (s.afterRead addr).dma = s.dma := by
  obtain ⟨n, h⟩ := s.afterRead_readsOnly addr; rw [h]
@[simp] theorem State.afterRead_hdma (s : State) (addr : Word) : (s.afterRead addr).hdma = s.hdma := by
  obtain ⟨n, h⟩ := s.afterRead_readsOnly addr; rw [h]
@[simp] theorem State.afterRead_opAddr (s : State) (addr : Word) : (s.afterRead addr).opAddr = s.opAddr := by
  obtain ⟨n, h⟩ := s.afterRead_readsOnly addr; rw [h]
@[simp] theorem State.afterRead_cfg (s : State) (addr : Word) : (s.afterRead addr).cfg = s.cfg := by
  obtain ⟨n, h⟩ := s.afterRead_readsOnly addr; rw [h]
@[simp] theorem State.afterRead_hostScript (s : State) (addr : Word) : (s.afterRead addr).hostScript = s.hostScript := by
  obtain ⟨n, h⟩ := s.afterRead_readsOnly addr; rw [h]
@[simp] theorem State.afterRead_mem (s : State) (addr : Word) : (s.afterRead addr).bus.mem = s.bus.mem := by
  obtain ⟨n, h⟩ := s.afterRead_readsOnly addr; rw [h]
@[simp] theorem State.afterRead_map (s : State) (addr : Word) : (s.afterRead addr).bus.map = s.bus.map := by
  obtain ⟨n, h⟩ := s.afterRead_readsOnly addr; rw [h]

/-! `afterLoc` changes no field but the count of external reads. -/

@[simp] theorem State.afterLoc_a (s : State) (o : Loc) : (s.afterLoc o).a = s.a := by
  obtain ⟨n, h⟩ := s.afterLoc_readsOnly o; rw [h]
@[simp] theorem State.afterLoc_f (s : State) (o : Loc) : (s.afterLoc o).f = s.f := by
  obtain ⟨n, h⟩ := s.afterLoc_readsOnly o; rw [h]
@[simp] theorem State.afterLoc_b (s : State) (o : Loc) : (s.afterLoc o).b = s.b := by
  obtain ⟨n, h⟩ := s.afterLoc_readsOnly o; rw [h]
@[simp] theorem State.afterLoc_c (s : State) (o : Loc) : (s.afterLoc o).c = s.c := by
  obtain ⟨n, h⟩ := s.afterLoc_readsOnly o; rw [h]
@[simp] theorem State.afterLoc_d (s : State) (o : Loc) : (s.afterLoc o).d = s.d := by
  obtain ⟨n, h⟩ := s.afterLoc_readsOnly o; rw [h]
@[simp] theorem State.afterLoc_e (s : State) (o : Loc) : (s.afterLoc o).e = s.e := by
  obtain ⟨n, h⟩ := s.afterLoc_readsOnly o; rw [h]
@[simp] theorem State.afterLoc_h (s : State) (o : Loc) : (s.afterLoc o).h = s.h := by
  obtain ⟨n, h⟩ := s.afterLoc_readsOnly o; rw [h]
@[simp] theorem State.afterLoc_l (s : State) (o : Loc) : (s.afterLoc o).l = s.l := by
  obtain ⟨n, h⟩ := s.afterLoc_readsOnly o; rw [h]
@[simp] theorem State.afterLoc_sp (s : State) (o : Loc) : (s.afterLoc o).sp = s.sp := by
  obtain ⟨n, h⟩ := s.afterLoc_readsOnly o; rw [h]
@[simp] theorem State.afterLoc_pc (s : State) (o : Loc) : (s.afterLoc o).pc = s.pc := by
  obtain ⟨n, h⟩ := s.afterLoc_readsOnly o; rw [h]
@[simp] theorem State.afterLoc_runState (s : State) (o : Loc) : (s.afterLoc o).runState = s.runState := by
  obtain ⟨n, h⟩ := s.afterLoc_readsOnly o; rw [h]
@[simp] theorem State.afterLoc_ime (s : State) (o : Loc) : (s.afterLoc o).ime = s.ime := by
  obtain ⟨n, h⟩ := s.afterLoc_readsOnly o; rw [h]
@[simp] theorem State.afterLoc_eiPending (s : State) (o : Loc) : (s.afterLoc o).eiPending = s.eiPending := by
  obtain ⟨n, h⟩ := s.afterLoc_readsOnly o; rw [h]
@[simp] theorem State.afterLoc_haltBug (s : State) (o : Loc) : (s.afterLoc o).haltBug = s.haltBug := by
  obtain ⟨n, h⟩ := s.afterLoc_readsOnly o; rw [h]
@[simp] theorem State.afterLoc_dispatchStage (s : State) (o : Loc) : (s.afterLoc o).dispatchStage = s.dispatchStage := by
  obtain ⟨n, h⟩ := s.afterLoc_readsOnly o; rw [h]
@[simp] theorem State.afterLoc_dispatchBit (s : State) (o : Loc) : (s.afterLoc o).dispatchBit = s.dispatchBit := by
  obtain ⟨n, h⟩ := s.afterLoc_readsOnly o; rw [h]
@[simp] theorem State.afterLoc_fault (s : State) (o : Loc) : (s.afterLoc o).fault = s.fault := by
  obtain ⟨n, h⟩ := s.afterLoc_readsOnly o; rw [h]
@[simp] theorem State.afterLoc_ie (s : State) (o : Loc) : (s.afterLoc o).ie = s.ie := by
  obtain ⟨n, h⟩ := s.afterLoc_readsOnly o; rw [h]
@[simp] theorem State.afterLoc_ifl (s : State) (o : Loc) : (s.afterLoc o).ifl = s.ifl := by
  obtain ⟨n, h⟩ := s.afterLoc_readsOnly o; rw [h]
@[simp] theorem State.afterLoc_timer (s : State) (o : Loc) : (s.afterLoc o).timer = s.timer := by
  obtain ⟨n, h⟩ := s.afterLoc_readsOnly o; rw [h]
@[simp] theorem State.afterLoc_dma (s : State) (o : Loc) : (s.afterLoc o).dma = s.dma := by
  obtain ⟨n, h⟩ := s.afterLoc_readsOnly o; rw [h]
@[simp] theorem State.afterLoc_hdma (s : State) (o : Loc) : (s.afterLoc o).hdma = s.hdma := by
  obtain ⟨n, h⟩ := s.afterLoc_readsOnly o; rw [h]
@[simp] theorem State.afterLoc_opAddr (s : State) (o : Loc) : (s.afterLoc o).opAddr = s.opAddr := by
  obtain ⟨n, h⟩ := s.afterLoc_readsOnly o; rw [h]
@[simp] theorem State.afterLoc_cfg (s : State) (o : Loc) : (s.afterLoc o).cfg = s.cfg := by
  obtain ⟨n, h⟩ := s.afterLoc_readsOnly o; rw [h]
@[simp] theorem State.afterLoc_hostScript (s : State) (o : Loc) : (s.afterLoc o).hostScript = s.hostScript := by
  obtain ⟨n, h⟩ := s.afterLoc_readsOnly o; rw [h]
@[simp] theorem State.afterLoc_mem (s : State) (o : Loc) : (s.afterLoc o).bus.mem = s.bus.mem := by
  obtain ⟨n, h⟩ := s.afterLoc_readsOnly o; rw [h]
@[simp] theorem State.afterLoc_map (s : State) (o : Loc) : (s.afterLoc o).bus.map = s.bus.map := by
  obtain ⟨n, h⟩ := s.afterLoc_readsOnly o; rw [h]

/-! `afterSource` changes no field but the count of external reads. -/

@[simp] theorem State.afterSource_a (s : State) (o : Source) : (s.afterSource o).a = s.a := by
  obtain ⟨n, h⟩ := s.afterSource_readsOnly o; rw [h]
@[simp] theorem State.afterSource_f (s : State) (o : Source) : (s.afterSource o).f = s.f := by
  obtain ⟨n, h⟩ := s.afterSource_readsOnly o; rw [h]
@[simp] theorem State.afterSource_b (s : State) (o : Source) : (s.afterSource o).b = s.b := by
  obtain ⟨n, h⟩ := s.afterSource_readsOnly o; rw [h]
@[simp] theorem State.afterSource_c (s : State) (o : Source) : (s.afterSource o).c = s.c := by
  obtain ⟨n, h⟩ := s.afterSource_readsOnly o; rw [h]
@[simp] theorem State.afterSource_d (s : State) (o : Source) : (s.afterSource o).d = s.d := by
  obtain ⟨n, h⟩ := s.afterSource_readsOnly o; rw [h]
@[simp] theorem State.afterSource_e (s : State) (o : Source) : (s.afterSource o).e = s.e := by
  obtain ⟨n, h⟩ := s.afterSource_readsOnly o; rw [h]
@[simp] theorem State.afterSource_h (s : State) (o : Source) : (s.afterSource o).h = s.h := by
  obtain ⟨n, h⟩ := s.afterSource_readsOnly o; rw [h]
@[simp] theorem State.afterSource_l (s : State) (o : Source) : (s.afterSource o).l = s.l := by
  obtain ⟨n, h⟩ := s.afterSource_readsOnly o; rw [h]
@[simp] theorem State.afterSource_sp (s : State) (o : Source) : (s.afterSource o).sp = s.sp := by
  obtain ⟨n, h⟩ := s.afterSource_readsOnly o; rw [h]
@[simp] theorem State.afterSource_pc (s : State) (o : Source) : (s.afterSource o).pc = s.pc := by
  obtain ⟨n, h⟩ := s.afterSource_readsOnly o; rw [h]
@[simp] theorem State.afterSource_runState (s : State) (o : Source) : (s.afterSource o).runState = s.runState := by
  obtain ⟨n, h⟩ := s.afterSource_readsOnly o; rw [h]
@[simp] theorem State.afterSource_ime (s : State) (o : Source) : (s.afterSource o).ime = s.ime := by
  obtain ⟨n, h⟩ := s.afterSource_readsOnly o; rw [h]
@[simp] theorem State.afterSource_eiPending (s : State) (o : Source) : (s.afterSource o).eiPending = s.eiPending := by
  obtain ⟨n, h⟩ := s.afterSource_readsOnly o; rw [h]
@[simp] theorem State.afterSource_haltBug (s : State) (o : Source) : (s.afterSource o).haltBug = s.haltBug := by
  obtain ⟨n, h⟩ := s.afterSource_readsOnly o; rw [h]
@[simp] theorem State.afterSource_dispatchStage (s : State) (o : Source) : (s.afterSource o).dispatchStage = s.dispatchStage := by
  obtain ⟨n, h⟩ := s.afterSource_readsOnly o; rw [h]
@[simp] theorem State.afterSource_dispatchBit (s : State) (o : Source) : (s.afterSource o).dispatchBit = s.dispatchBit := by
  obtain ⟨n, h⟩ := s.afterSource_readsOnly o; rw [h]
@[simp] theorem State.afterSource_fault (s : State) (o : Source) : (s.afterSource o).fault = s.fault := by
  obtain ⟨n, h⟩ := s.afterSource_readsOnly o; rw [h]
@[simp] theorem State.afterSource_ie (s : State) (o : Source) : (s.afterSource o).ie = s.ie := by
  obtain ⟨n, h⟩ := s.afterSource_readsOnly o; rw [h]
@[simp] theorem State.afterSource_ifl (s : State) (o : Source) : (s.afterSource o).ifl = s.ifl := by
  obtain ⟨n, h⟩ := s.afterSource_readsOnly o; rw [h]
@[simp] theorem State.afterSource_timer (s : State) (o : Source) : (s.afterSource o).timer = s.timer := by
  obtain ⟨n, h⟩ := s.afterSource_readsOnly o; rw [h]
@[simp] theorem State.afterSource_dma (s : State) (o : Source) : (s.afterSource o).dma = s.dma := by
  obtain ⟨n, h⟩ := s.afterSource_readsOnly o; rw [h]
@[simp] theorem State.afterSource_hdma (s : State) (o : Source) : (s.afterSource o).hdma = s.hdma := by
  obtain ⟨n, h⟩ := s.afterSource_readsOnly o; rw [h]
@[simp] theorem State.afterSource_opAddr (s : State) (o : Source) : (s.afterSource o).opAddr = s.opAddr := by
  obtain ⟨n, h⟩ := s.afterSource_readsOnly o; rw [h]
@[simp] theorem State.afterSource_cfg (s : State) (o : Source) : (s.afterSource o).cfg = s.cfg := by
  obtain ⟨n, h⟩ := s.afterSource_readsOnly o; rw [h]
@[simp] theorem State.afterSource_hostScript (s : State) (o : Source) : (s.afterSource o).hostScript = s.hostScript := by
  obtain ⟨n, h⟩ := s.afterSource_readsOnly o; rw [h]
@[simp] theorem State.afterSource_mem (s : State) (o : Source) : (s.afterSource o).bus.mem = s.bus.mem := by
  obtain ⟨n, h⟩ := s.afterSource_readsOnly o; rw [h]
@[simp] theorem State.afterSource_map (s : State) (o : Source) : (s.afterSource o).bus.map = s.bus.map := by
  obtain ⟨n, h⟩ := s.afterSource_readsOnly o; rw [h]

/-- After reads, every byte of memory is as before. -/
theorem ReadsOnly.bytesKept {s t : State} (h : ReadsOnly s t) : OtherBytesKept [] s t := by
  obtain ⟨n, rfl⟩ := h
  refine ⟨fun _ x _ hx => ?_, fun _ x _ => rfl⟩
  simp only [State.peek, State.coreByte, State.coreReg, State.busByte, State.busKind] at hx ⊢
  split
  · rfl
  · split
    · rfl
    · rfl
    · simp_all

theorem ReadsOnly.controlKept {s t : State} (h : ReadsOnly s t) : ControlKept s t := by
  obtain ⟨n, rfl⟩ := h
  simp [ControlKept]

theorem ReadsOnly.peripheralsKept {s t : State} (h : ReadsOnly s t) : PeripheralsKept s t := by
  obtain ⟨n, rfl⟩ := h
  simp [PeripheralsKept]

/-! ## What a write may change -/

/-- `t` is `s` but for the core's memory-mapped registers, its engines, and the bus contents. -/
def WritesOnly (s t : State) : Prop :=
  t = { s with ie := t.ie, ifl := t.ifl, timer := t.timer, dma := t.dma, hdma := t.hdma, bus := t.bus } ∧
  t.bus.map = s.bus.map

theorem WritesOnly.refl {s : State} : WritesOnly s s := ⟨Eq.refl _, Eq.refl _⟩

theorem WritesOnly.trans {s t u : State} (h1 : WritesOnly s t) (h2 : WritesOnly t u) : WritesOnly s u := by
  refine ⟨?_, h2.2.trans h1.2⟩
  have h1' := h1.1
  have h2' := h2.1
  rw [h2', h1']

theorem ReadsOnly.writesOnly {s t : State} (h : ReadsOnly s t) : WritesOnly s t := by
  obtain ⟨n, rfl⟩ := h
  exact ⟨Eq.refl _, Eq.refl _⟩

theorem WritesOnly.a {s t : State} (h : WritesOnly s t) : t.a = s.a := by rw [h.1]
theorem WritesOnly.f {s t : State} (h : WritesOnly s t) : t.f = s.f := by rw [h.1]
theorem WritesOnly.b {s t : State} (h : WritesOnly s t) : t.b = s.b := by rw [h.1]
theorem WritesOnly.c {s t : State} (h : WritesOnly s t) : t.c = s.c := by rw [h.1]
theorem WritesOnly.d {s t : State} (h : WritesOnly s t) : t.d = s.d := by rw [h.1]
theorem WritesOnly.e {s t : State} (h : WritesOnly s t) : t.e = s.e := by rw [h.1]
theorem WritesOnly.h {s t : State} (h : WritesOnly s t) : t.h = s.h := by rw [h.1]
theorem WritesOnly.l {s t : State} (h : WritesOnly s t) : t.l = s.l := by rw [h.1]
theorem WritesOnly.sp {s t : State} (h : WritesOnly s t) : t.sp = s.sp := by rw [h.1]
theorem WritesOnly.pc {s t : State} (h : WritesOnly s t) : t.pc = s.pc := by rw [h.1]
theorem WritesOnly.runState {s t : State} (h : WritesOnly s t) : t.runState = s.runState := by rw [h.1]
theorem WritesOnly.ime {s t : State} (h : WritesOnly s t) : t.ime = s.ime := by rw [h.1]
theorem WritesOnly.eiPending {s t : State} (h : WritesOnly s t) : t.eiPending = s.eiPending := by rw [h.1]
theorem WritesOnly.haltBug {s t : State} (h : WritesOnly s t) : t.haltBug = s.haltBug := by rw [h.1]
theorem WritesOnly.dispatchStage {s t : State} (h : WritesOnly s t) : t.dispatchStage = s.dispatchStage := by rw [h.1]
theorem WritesOnly.dispatchBit {s t : State} (h : WritesOnly s t) : t.dispatchBit = s.dispatchBit := by rw [h.1]
theorem WritesOnly.fault {s t : State} (h : WritesOnly s t) : t.fault = s.fault := by rw [h.1]
theorem WritesOnly.opAddr {s t : State} (h : WritesOnly s t) : t.opAddr = s.opAddr := by rw [h.1]
theorem WritesOnly.cfg {s t : State} (h : WritesOnly s t) : t.cfg = s.cfg := by rw [h.1]
theorem WritesOnly.hostScript {s t : State} (h : WritesOnly s t) : t.hostScript = s.hostScript := by rw [h.1]

theorem WritesOnly.getReg {s t : State} (h : WritesOnly s t) (r : Reg8) : t.getReg r = s.getReg r := by
  rw [h.1]; cases r <;> rfl

theorem WritesOnly.controlKept {s t : State} (h : WritesOnly s t) : ControlKept s t :=
  ⟨h.runState, h.ime, h.eiPending, h.haltBug, h.dispatchStage, h.dispatchBit, h.fault, h.opAddr, h.cfg, h.hostScript, h.2⟩

theorem State.busWrite_writesOnly (addr : Word) (v : Byte) (s : State) : WritesOnly s (s.busWrite addr v) := by
  unfold State.busWrite
  split
  · exact ⟨Eq.refl _, Eq.refl _⟩
  · exact WritesOnly.refl

theorem State.vramWrite_writesOnly (addr : Word) (v : Byte) (s : State) : WritesOnly s (s.vramWrite addr v) := by
  unfold State.vramWrite
  split
  · exact s.busWrite_writesOnly addr v
  · exact WritesOnly.refl

theorem State.oamWrite_writesOnly (addr : Word) (v : Byte) (s : State) : WritesOnly s (s.oamWrite addr v) := by
  unfold State.oamWrite
  split
  · exact s.busWrite_writesOnly addr v
  · exact WritesOnly.refl

theorem State.hdmaCopy_writesOnly (n : Nat) (s : State) : WritesOnly s (s.hdmaCopy n) := by
  induction n with
  | zero => exact WritesOnly.refl
  | succ i ih =>
    exact ih.trans ((State.afterCoreRead_readsOnly _ _).writesOnly.trans (State.vramWrite_writesOnly _ _ _))

theorem State.hdmaBlock_writesOnly (s : State) : WritesOnly s s.hdmaBlock :=
  (s.hdmaCopy_writesOnly 16).trans ⟨Eq.refl _, Eq.refl _⟩

theorem State.hdmaStep_writesOnly (s : State) : WritesOnly s s.hdmaStep :=
  s.hdmaBlock_writesOnly.trans ⟨Eq.refl _, Eq.refl _⟩

theorem State.hdmaBlocks_writesOnly (n : Nat) (s : State) : WritesOnly s (s.hdmaBlocks n) := by
  induction n generalizing s with
  | zero => exact WritesOnly.refl
  | succ k ih => exact s.hdmaStep_writesOnly.trans (ih _)

theorem State.writeHdma5_writesOnly (v : Byte) (s : State) : WritesOnly s (s.writeHdma5 v) := by
  unfold State.writeHdma5
  split
  · split
    · exact WritesOnly.refl
    · exact ⟨Eq.refl _, Eq.refl _⟩
  · split
    · exact ⟨Eq.refl _, Eq.refl _⟩
    · exact (WritesOnly.trans (t := { s with hdma := { s.hdma with remaining := hdmaBlockCount v, stopped := false, mode := .general } })
        ⟨Eq.refl _, Eq.refl _⟩ (State.hdmaBlocks_writesOnly (hdmaBlockCount v) _)).trans ⟨Eq.refl _, Eq.refl _⟩

theorem State.writeCoreReg_writesOnly (r : CoreReg) (v : Byte) (s : State) : WritesOnly s (s.writeCoreReg r v) := by
  cases r <;> first | exact ⟨Eq.refl _, Eq.refl _⟩ | exact s.writeHdma5_writesOnly v

theorem State.coreWrite_writesOnly (addr : Word) (v : Byte) (s : State) : WritesOnly s (s.coreWrite addr v) := by
  unfold State.coreWrite
  split
  · exact s.writeCoreReg_writesOnly _ v
  · exact s.busWrite_writesOnly addr v

theorem State.memWrite_writesOnly (addr : Word) (v : Byte) (s : State) : WritesOnly s (s.memWrite addr v) := by
  unfold State.memWrite
  split
  · exact WritesOnly.refl
  · exact s.coreWrite_writesOnly addr v

/-! `memWrite` leaves the Processor's own registers. -/

@[simp] theorem State.memWrite_a (addr : Word) (v : Byte) (s : State) : (s.memWrite addr v).a = s.a :=
  (s.memWrite_writesOnly addr v).a
@[simp] theorem State.memWrite_f (addr : Word) (v : Byte) (s : State) : (s.memWrite addr v).f = s.f :=
  (s.memWrite_writesOnly addr v).f
@[simp] theorem State.memWrite_b (addr : Word) (v : Byte) (s : State) : (s.memWrite addr v).b = s.b :=
  (s.memWrite_writesOnly addr v).b
@[simp] theorem State.memWrite_c (addr : Word) (v : Byte) (s : State) : (s.memWrite addr v).c = s.c :=
  (s.memWrite_writesOnly addr v).c
@[simp] theorem State.memWrite_d (addr : Word) (v : Byte) (s : State) : (s.memWrite addr v).d = s.d :=
  (s.memWrite_writesOnly addr v).d
@[simp] theorem State.memWrite_e (addr : Word) (v : Byte) (s : State) : (s.memWrite addr v).e = s.e :=
  (s.memWrite_writesOnly addr v).e
@[simp] theorem State.memWrite_h (addr : Word) (v : Byte) (s : State) : (s.memWrite addr v).h = s.h :=
  (s.memWrite_writesOnly addr v).h
@[simp] theorem State.memWrite_l (addr : Word) (v : Byte) (s : State) : (s.memWrite addr v).l = s.l :=
  (s.memWrite_writesOnly addr v).l
@[simp] theorem State.memWrite_sp (addr : Word) (v : Byte) (s : State) : (s.memWrite addr v).sp = s.sp :=
  (s.memWrite_writesOnly addr v).sp
@[simp] theorem State.memWrite_pc (addr : Word) (v : Byte) (s : State) : (s.memWrite addr v).pc = s.pc :=
  (s.memWrite_writesOnly addr v).pc
@[simp] theorem State.memWrite_runState (addr : Word) (v : Byte) (s : State) : (s.memWrite addr v).runState = s.runState :=
  (s.memWrite_writesOnly addr v).runState
@[simp] theorem State.memWrite_ime (addr : Word) (v : Byte) (s : State) : (s.memWrite addr v).ime = s.ime :=
  (s.memWrite_writesOnly addr v).ime
@[simp] theorem State.memWrite_eiPending (addr : Word) (v : Byte) (s : State) : (s.memWrite addr v).eiPending = s.eiPending :=
  (s.memWrite_writesOnly addr v).eiPending
@[simp] theorem State.memWrite_haltBug (addr : Word) (v : Byte) (s : State) : (s.memWrite addr v).haltBug = s.haltBug :=
  (s.memWrite_writesOnly addr v).haltBug
@[simp] theorem State.memWrite_dispatchStage (addr : Word) (v : Byte) (s : State) : (s.memWrite addr v).dispatchStage = s.dispatchStage :=
  (s.memWrite_writesOnly addr v).dispatchStage
@[simp] theorem State.memWrite_dispatchBit (addr : Word) (v : Byte) (s : State) : (s.memWrite addr v).dispatchBit = s.dispatchBit :=
  (s.memWrite_writesOnly addr v).dispatchBit
@[simp] theorem State.memWrite_fault (addr : Word) (v : Byte) (s : State) : (s.memWrite addr v).fault = s.fault :=
  (s.memWrite_writesOnly addr v).fault
@[simp] theorem State.memWrite_opAddr (addr : Word) (v : Byte) (s : State) : (s.memWrite addr v).opAddr = s.opAddr :=
  (s.memWrite_writesOnly addr v).opAddr
@[simp] theorem State.memWrite_cfg (addr : Word) (v : Byte) (s : State) : (s.memWrite addr v).cfg = s.cfg :=
  (s.memWrite_writesOnly addr v).cfg
@[simp] theorem State.memWrite_hostScript (addr : Word) (v : Byte) (s : State) : (s.memWrite addr v).hostScript = s.hostScript :=
  (s.memWrite_writesOnly addr v).hostScript
@[simp] theorem State.memWrite_map (addr : Word) (v : Byte) (s : State) : (s.memWrite addr v).bus.map = s.bus.map :=
  (s.memWrite_writesOnly addr v).2
@[simp] theorem State.getReg_memWrite (r : Reg8) (addr : Word) (v : Byte) (s : State) :
    (s.memWrite addr v).getReg r = s.getReg r := (s.memWrite_writesOnly addr v).getReg r

end Sys2Proof.Machine
end

