-- ==== Sys2Proof/Laws/Frames.lean ====
section
/-! SUPPORT. Every byte outside a stored one keeps its value: for one store, and for one after another. -/
namespace Sys2Proof.Machine

theorem WritesOnly.coreReg {s t : State} (h : WritesOnly s t) (x : Word) : t.coreReg x = s.coreReg x := by
  simp only [State.coreReg, h.cfg]

theorem WritesOnly.busKind {s t : State} (h : WritesOnly s t) (x : Word) : t.busKind x = s.busKind x := by
  simp only [State.busKind, h.2]

theorem Word.toNat_ne {x y : Word} (h : x ≠ y) : x.toNat ≠ y.toNat := fun e => h (BitVec.eq_of_toNat_eq e)

/-- A plain-memory write is read back. -/
theorem State.busWrite_read_same (addr : Word) (v : Byte) (s : State) (h : s.busKind addr = .plain) :
    (s.busWrite addr v).bus.mem.read addr.toNat = v := by
  simp only [State.busWrite, h]
  exact Memory.read_write_same _ _ _

/-- A bus write leaves every other byte. -/
theorem State.busWrite_read_other (addr x : Word) (v : Byte) (s : State) (h : x ≠ addr) :
    (s.busWrite addr v).bus.mem.read x.toNat = s.bus.mem.read x.toNat := by
  unfold State.busWrite
  split
  · exact Memory.read_write_other _ _ _ _ (Word.toNat_ne h)
  · rfl

theorem State.busWrite_peripherals (addr : Word) (v : Byte) (s : State) : PeripheralsKept s (s.busWrite addr v) := by
  unfold State.busWrite
  split <;> exact ⟨rfl, rfl, rfl, rfl, rfl⟩

/-- A write that no core register takes leaves the core's registers and its engines. -/
theorem State.memWrite_peripherals (addr : Word) (v : Byte) (s : State) (h : s.coreReg addr = none) :
    PeripheralsKept s (s.memWrite addr v) := by
  unfold State.memWrite
  split
  · exact ⟨rfl, rfl, rfl, rfl, rfl⟩
  · simp only [State.coreWrite, h]
    exact s.busWrite_peripherals addr v

/-- A write of a core register other than HDMA5 leaves the bus. -/
theorem State.writeCoreReg_bus (r : CoreReg) (v : Byte) (s : State) (h : r ≠ .hdma5) :
    (s.writeCoreReg r v).bus = s.bus := by
  cases r <;> first | rfl | exact absurd rfl h

/-- Only the byte at the address can change in the bus contents, unless the write starts a copy. -/
theorem State.memWrite_read_other (addr x : Word) (v : Byte) (s : State) (hr : s.coreReg addr ≠ some .hdma5)
    (hx : x ≠ addr) : (s.memWrite addr v).bus.mem.read x.toNat = s.bus.mem.read x.toNat := by
  unfold State.memWrite
  split
  · rfl
  · unfold State.coreWrite
    split
    · rename_i r hc
      rw [State.writeCoreReg_bus r v s (fun e => hr (by rw [hc, e]))]
    · exact State.busWrite_read_other addr x v s hx

/-- A byte of the address space that no external unit answers for depends only on the core's registers, the map and the
bus contents at that address. -/
theorem State.peek_congr {s t : State} (x : Word) (hc : t.cfg = s.cfg) (hm : t.bus.map = s.bus.map)
    (hp : PeripheralsKept s t) (hr : t.bus.mem.read x.toNat = s.bus.mem.read x.toNat)
    (hx : s.coreReg x ≠ none ∨ s.busKind x ≠ .external) : t.peek x = s.peek x := by
  obtain ⟨h1, h2, h3, h4, h5⟩ := hp
  have e1 : t.coreReg x = s.coreReg x := by simp only [State.coreReg, hc]
  have e2 : t.busKind x = s.busKind x := by simp only [State.busKind, hm]
  simp only [State.peek, State.coreByte, e1]
  split
  · rename_i r _
    cases r <;> simp only [State.coreRegByte, h1, h2, h3, h4, h5]
  · simp only [State.busByte, e2, hr]
    split
    · rfl
    · rfl
    · simp_all

theorem State.memWrite_bytesKept (addr : Word) (v : Byte) (s : State) : OtherBytesKept [addr] s (s.memWrite addr v) := by
  refine ⟨fun hs x hx hk => ?_, fun hs x hx => ?_⟩
  · have hc : s.coreReg addr = none := hs addr (by simp)
    refine State.peek_congr x (by simp) (by simp) (s.memWrite_peripherals addr v hc) ?_ hk
    exact State.memWrite_read_other addr x v s (by simp [hc]) (by simpa using hx)
  · exact State.memWrite_read_other addr x v s (hs addr (by simp)) (by simpa using hx)

/-- A store to plain memory is read back. -/
theorem State.memWrite_peek (addr : Word) (v : Byte) (s : State) (h : s.PlainCell addr) :
    (s.memWrite addr v).peek addr = v := by
  obtain ⟨hl, hc, hk⟩ := h
  have e : s.memWrite addr v = s.busWrite addr v := by simp [State.memWrite, hl, State.coreWrite, hc]
  have hw := s.busWrite_writesOnly addr v
  rw [e]
  simp only [State.peek, State.coreByte, hw.coreReg, hc, State.busByte, hw.busKind, hk]
  exact State.busWrite_read_same addr v s hk

/-- One store after another: the bytes outside both keep their values. -/
theorem OtherBytesKept.trans {l1 l2 : List Word} {s t u : State} (h1 : OtherBytesKept l1 s t) (h2 : OtherBytesKept l2 t u)
    (hst : WritesOnly s t) : OtherBytesKept (l1 ++ l2) s u := by
  refine ⟨fun hs x hx hk => ?_, fun hs x hx => ?_⟩
  · simp only [List.mem_append, not_or] at hx
    have a1 := h1.1 (fun a ha => hs a (by simp [ha])) x hx.1 hk
    have a2 := h2.1 (fun a ha => by rw [hst.coreReg]; exact hs a (by simp [ha])) x hx.2
      (by rw [hst.coreReg, hst.busKind]; exact hk)
    exact a2.trans a1
  · simp only [List.mem_append, not_or] at hx
    exact (h2.2 (fun a ha => by rw [hst.coreReg]; exact hs a (by simp [ha])) x hx.2).trans
      (h1.2 (fun a ha => hs a (by simp [ha])) x hx.1)

/-- Writing the Processor's own registers changes no byte of memory. -/
theorem OtherBytesKept.of_bus {s t : State} (hc : t.cfg = s.cfg) (hb : t.bus = s.bus) (hp : PeripheralsKept s t) :
    OtherBytesKept [] s t := by
  refine ⟨fun _ x _ hx => State.peek_congr x hc (by rw [hb]) hp (by rw [hb]) hx, fun _ x _ => by rw [hb]⟩

/-- The same, before a change that stores bytes. -/
theorem OtherBytesKept.of_bus_left {l : List Word} {s s' t : State} (hc : s'.cfg = s.cfg) (hb : s'.bus = s.bus)
    (hp : PeripheralsKept s s') (h : OtherBytesKept l s' t) : OtherBytesKept l s t := by
  have hk : ∀ x, s'.coreReg x = s.coreReg x := fun x => by simp only [State.coreReg, hc]
  have hm : ∀ x, s'.busKind x = s.busKind x := fun x => by simp only [State.busKind, hb]
  refine ⟨fun hs x hx hx2 => ?_, fun hs x hx => ?_⟩
  · rw [h.1 (fun a ha => by rw [hk]; exact hs a ha) x hx (by rw [hk, hm]; exact hx2)]
    exact State.peek_congr x hc (by rw [hb]) hp (by rw [hb]) hx2
  · rw [h.2 (fun a ha => by rw [hk]; exact hs a ha) x hx, hb]

/-- The same, after a change that stores bytes. -/
theorem OtherBytesKept.of_bus_right {l : List Word} {s t t' : State} (hst : WritesOnly s t) (hc : t'.cfg = t.cfg)
    (hb : t'.bus = t.bus) (hp : PeripheralsKept t t') (h : OtherBytesKept l s t) : OtherBytesKept l s t' := by
  refine ⟨fun hs x hx hx2 => ?_, fun hs x hx => ?_⟩
  · rw [← h.1 hs x hx hx2]
    exact State.peek_congr x hc (by rw [hb]) hp (by rw [hb]) (by rw [hst.coreReg, hst.busKind]; exact hx2)
  · rw [← h.2 hs x hx, hb]

end Sys2Proof.Machine
end

