-- ==== Sys2Proof/Laws/CoreAccess.lean ====
section
/-! SUPPORT. The Processor's access of a core register, and the addresses that are no core register. -/
namespace Sys2Proof.Machine

/-- The bus lock ends at 0xFF00 (60_exceptions.md R254). -/
theorem State.busLocked_high (s : State) (addr : Word) (h : 0xFF00 ≤ addr.toNat) : s.busLocked addr = false := by
  have : ¬ addr.toNat < 0xFF00 := by omega
  simp [State.busLocked, this]

/-- A core register is read and written past any lock, and its read changes nothing (20_memory.md R55, R57, R59). -/
theorem State.coreReg_access {s : State} {addr : Word} {r : CoreReg} (h : 0xFF00 ≤ addr.toNat) (hr : s.coreReg addr = some r) :
    s.readByte addr = s.coreRegByte r ∧ s.afterRead addr = s ∧ ∀ v, s.memWrite addr v = s.writeCoreReg r v := by
  simp only [State.readByte, State.afterRead, State.memWrite, s.busLocked_high addr h, State.coreByte, State.afterCoreRead,
    State.coreWrite, hr]
  exact ⟨rfl, rfl, fun _ => rfl⟩

/-- The HDMA registers of the CGB (20_memory.md R57). -/
theorem State.coreReg_hdma {s : State} (h : s.cfg.variant = .cgb) : s.coreReg 0xFF51 = some .hdma1 ∧
    s.coreReg 0xFF52 = some .hdma2 ∧ s.coreReg 0xFF53 = some .hdma3 ∧ s.coreReg 0xFF54 = some .hdma4 ∧
    s.coreReg 0xFF55 = some .hdma5 := by
  unfold State.coreReg
  rw [h]
  decide

/-- No address below 0xFF00 is a core register (10_state.md R32). -/
theorem coreRegAt_low (variant : Variant) (addr : Word) (h : addr.toNat < 0xFF00) : coreRegAt variant addr = none := by
  have ne : ∀ k : Word, 0xFF00 ≤ k.toNat → addr ≠ k := fun k hk e => by rw [e] at h; omega
  unfold coreRegAt
  rw [if_neg (ne _ (by decide)), if_neg (ne _ (by decide)), if_neg (ne _ (by decide)), if_neg (ne _ (by decide)),
    if_neg (ne _ (by decide)), if_neg (ne _ (by decide)), if_neg (ne _ (by decide))]
  cases variant
  · rfl
  · simp only
    rw [if_neg (ne _ (by decide)), if_neg (ne _ (by decide)), if_neg (ne _ (by decide)), if_neg (ne _ (by decide)),
      if_neg (ne _ (by decide))]

/-- An unlocked read that reaches no external unit changes nothing. -/
theorem State.afterCoreRead_self {s : State} {addr : Word} (hc : s.coreReg addr = none) (hk : s.busKind addr ≠ .external) :
    s.afterCoreRead addr = s := by
  unfold State.afterCoreRead State.afterBusRead
  rw [hc]
  cases h : s.busKind addr with
  | external => exact absurd h hk
  | plain => rfl
  | unmapped => rfl

end Sys2Proof.Machine
end

