-- ==== Sys2Proof/Laws/Decode.lean ====
section
/-! SUPPORT. What the decoder reads from an opcode byte is well-formed and encodes back to the bytes it was read from. -/
namespace Sys2Proof.Machine

/-- A 16-bit operand is the word of its two bytes. -/
theorem immWord_wordBytes (nn : Word) : immWord (nn.extractLsb' 0 8) (nn.extractLsb' 8 8) = nn := mkWord_hi_lo nn

theorem wordBytes_immWord (b1 b2 : Byte) : wordBytes (immWord b1 b2) = [b1, b2] := by
  have h1 : (immWord b1 b2).extractLsb' 0 8 = b1 := loByte_mkWord b2 b1
  have h2 : (immWord b1 b2).extractLsb' 8 8 = b2 := hiByte_mkWord b2 b1
  simp only [wordBytes, h1, h2]

set_option maxRecDepth 10000 in
/-- Every opcode byte, with every pair of bytes after it (30_encoding.md R71, R74, R78). -/
theorem encode_decodeOp (op b1 b2 : Byte) : (decodeOp op b1 b2).wellFormed = true ∧
    encode (decodeOp op b1 b2) = op :: [b1, b2].take (operandCount op) := by
  obtain ⟨n, rfl⟩ : ∃ n : Fin 256, op = BitVec.ofFin n := ⟨op.toFin, rfl⟩
  by_cases hc : n = 203
  · subst hc
    obtain ⟨m, rfl⟩ : ∃ m : Fin 256, b1 = BitVec.ofFin m := ⟨b1.toFin, rfl⟩
    fin_cases m <;> exact ⟨rfl, rfl⟩
  · fin_cases n <;>
      first
        | exact ⟨rfl, rfl⟩
        | exact ⟨rfl, congrArg (List.cons _) (wordBytes_immWord b1 b2)⟩
        | exact absurd rfl hc

theorem encode_cons (i : Instr) : ∃ op operands, encode i = op :: operands := by
  cases i <;> exact ⟨_, _, rfl⟩

/-- An instruction whose encoding starts with a byte is read from that byte only. -/
theorem decodeOp_head {op b1 b2 first : Byte} {rest : List Byte} (h : encode (decodeOp op b1 b2) = first :: rest) :
    op = first := by
  rw [(encode_decodeOp op b1 b2).2] at h
  exact (List.cons.inj h).1

end Sys2Proof.Machine
end

