-- ==== Sys2Proof/Laws/Timer.lean ====
section
/-! SUPPORT. The timer: its ranges are kept by a tick and by every write, and when the edge detector's input falls. -/
namespace Sys2Proof.Machine

/-! ## The ranges of 10_state.md R45 are kept -/

theorem Timer.incrementTima_inv (t : Timer) (h : t.Inv) : t.incrementTima.Inv := by
  obtain ⟨dv, ti, tm, tc, st, cd, rp⟩ := t
  simp only [Timer.Inv] at h
  cases st <;> simp only [Timer.incrementTima, Timer.Inv]
  · split <;> simp_all
  · simp_all
  · split <;> simp_all

theorem Timer.setDivider_inv (t : Timer) (d : BitVec 16) (h : t.Inv) : ({ t with divider := d } : Timer).Inv := h

theorem Timer.setTac_inv (t : Timer) (d : BitVec 3) (h : t.Inv) : ({ t with tac := d } : Timer).Inv := h

theorem Timer.reloadStep_inv (t : Timer) (h : t.Inv) : t.reloadStep.1.Inv := by
  obtain ⟨dv, ti, tm, tc, st, cd, rp⟩ := t
  simp only [Timer.Inv] at h
  cases st <;> simp only [Timer.reloadStep, Timer.Inv]
  · simp_all
  · split
    · simp
    · simp_all; omega
  · split
    · simp_all
    · simp_all; omega

theorem Timer.dividerStep_inv (t : Timer) (h : t.Inv) : t.dividerStep.Inv := by
  unfold Timer.dividerStep
  split
  · exact Timer.incrementTima_inv _ (t.setDivider_inv _ h)
  · exact t.setDivider_inv _ h

theorem Timer.tick_inv (t : Timer) (h : t.Inv) : t.tick.1.Inv :=
  Timer.dividerStep_inv _ (t.reloadStep_inv h)

theorem Timer.writeDiv_inv (t : Timer) (h : t.Inv) : t.writeDiv.Inv := by
  unfold Timer.writeDiv
  split
  · exact Timer.incrementTima_inv _ (t.setDivider_inv _ h)
  · exact t.setDivider_inv _ h

theorem Timer.writeTima_inv (v : Byte) (t : Timer) (h : t.Inv) : (t.writeTima v).Inv := by
  obtain ⟨dv, ti, tm, tc, st, cd, rp⟩ := t
  cases st <;> simp_all [Timer.writeTima, Timer.Inv]

theorem Timer.writeTma_inv (v : Byte) (t : Timer) (h : t.Inv) : (t.writeTma v).Inv := by
  obtain ⟨dv, ti, tm, tc, st, cd, rp⟩ := t
  cases st <;> simp_all [Timer.writeTma, Timer.Inv]

theorem Timer.writeTac_inv (v : Byte) (t : Timer) (h : t.Inv) : (t.writeTac v).Inv := by
  unfold Timer.writeTac
  split
  · exact Timer.incrementTima_inv _ (t.setTac_inv _ h)
  · exact t.setTac_inv _ h

/-! ## When the edge detector's input falls -/

/-- A bit of a counter falls exactly where the counter's lower part is at its end. -/
theorem bit_falls (d : BitVec 16) (b : Nat) (hb : b < 15) :
    (d.getLsbD b && !(d + 1).getLsbD b) = decide (d.toNat % 2 ^ (b + 1) = 2 ^ (b + 1) - 1) := by
  have hd := d.isLt
  have hdiv : (2 : Nat) ^ (b + 1) * 2 ^ (15 - b) = 65536 := by
    rw [← Nat.pow_add, show b + 1 + (15 - b) = 16 by omega]
  have hp : (2 : Nat) ^ (b + 1) = 2 * 2 ^ b := by ring
  have hpos : 0 < (2 : Nat) ^ b := by positivity
  have key : ∀ n : Nat, n.testBit b = decide (2 ^ b ≤ n % 2 ^ (b + 1)) := by
    intro n
    rw [Nat.testBit_eq_decide_div_mod_eq, hp, Nat.mul_comm 2, Nat.mod_mul]
    have h1 : n % 2 ^ b < 2 ^ b := Nat.mod_lt _ hpos
    have h2 : n / 2 ^ b % 2 = 0 ∨ n / 2 ^ b % 2 = 1 := by omega
    rcases h2 with h2 | h2
    · simp [h2]; omega
    · simp [h2]
  have hadd : (d + 1).toNat = (d.toNat + 1) % 65536 := by simp [BitVec.toNat_add]
  simp only [BitVec.getLsbD, hadd, key]
  have hmm : (d.toNat + 1) % 65536 % 2 ^ (b + 1) = (d.toNat + 1) % 2 ^ (b + 1) := by
    rw [← hdiv]; exact Nat.mod_mul_right_mod _ _ _
  rw [hmm]
  have hlt : d.toNat % 2 ^ (b + 1) < 2 ^ (b + 1) := Nat.mod_lt _ (by positivity)
  by_cases he : d.toNat % 2 ^ (b + 1) = 2 ^ (b + 1) - 1
  · have : (d.toNat + 1) % 2 ^ (b + 1) = 0 := by
      rw [Nat.add_mod, he]
      have : 1 % 2 ^ (b + 1) = 1 := Nat.mod_eq_of_lt (by omega)
      rw [this, show 2 ^ (b + 1) - 1 + 1 = 2 ^ (b + 1) by omega, Nat.mod_self]
    simp [he, this]; omega
  · have : (d.toNat + 1) % 2 ^ (b + 1) = d.toNat % 2 ^ (b + 1) + 1 := by
      rw [Nat.add_mod, Nat.mod_eq_of_lt (show 1 < 2 ^ (b + 1) by omega)]
      exact Nat.mod_eq_of_lt (by omega)
    simp only [this, he, decide_false, Bool.and_eq_false_imp, decide_eq_true_eq, Bool.not_eq_false', decide_eq_true_eq]
    intro; omega

theorem timerSelect_lt (tac : BitVec 3) : timerSelect tac < 15 := by
  revert tac; decide

/-- The edge detector's input falls at a tick exactly when the timer is enabled and the selected bit's lower part of the
divider is at its end (60_exceptions.md R241). -/
theorem timerSignal_falls (d : BitVec 16) (tac : BitVec 3) :
    (timerSignal d tac && !timerSignal (d + 1) tac) =
      (tac.getLsbD 2 && decide (d.toNat % 2 ^ (timerSelect tac + 1) = 2 ^ (timerSelect tac + 1) - 1)) := by
  rw [← bit_falls d _ (timerSelect_lt tac)]
  simp only [timerSignal]
  cases tac.getLsbD 2 <;> simp

/-- The edge detector's input falls at the next tick exactly when `aboutToFall` says so. -/
theorem Timer.falls_eq (t : Timer) :
    (timerSignal t.divider t.tac && !timerSignal (t.divider + 1) t.tac) = t.aboutToFall := by
  rw [timerSignal_falls]
  rfl

/-! ## What a tick does -/

theorem Timer.incrementTima_keeps (t : Timer) :
    t.incrementTima.divider = t.divider ∧ t.incrementTima.tac = t.tac ∧ t.incrementTima.tma = t.tma := by
  unfold Timer.incrementTima
  split <;> (try split) <;> exact ⟨rfl, rfl, rfl⟩

theorem Timer.reloadStep_keeps (t : Timer) :
    t.reloadStep.1.divider = t.divider ∧ t.reloadStep.1.tac = t.tac ∧ t.reloadStep.1.tma = t.tma := by
  unfold Timer.reloadStep
  split <;> (try split) <;> exact ⟨rfl, rfl, rfl⟩

/-- The tick that ends OVERFLOW_DELAY loads TMA and requests the interrupt (60_exceptions.md R242). -/
theorem Timer.reloadStep_reload (t : Timer) (h : t.tstate = .overflowDelay) (hc : t.countdown = 1) : t.reloadStep =
    ({ t with tima := t.tma, tstate := .reloadActive, countdown := 4, reloadPending := false }, true) := by
  unfold Timer.reloadStep
  rw [h]
  simp [hc]

/-- A tick in one equation: the reload sequence's step, the divider's, and the increment where the input falls
(60_exceptions.md R242). -/
theorem Timer.tick_eq (t : Timer) :
    t.tick = (if t.aboutToFall then Timer.incrementTima { t.reloadStep.1 with divider := t.divider + 1 }
      else { t.reloadStep.1 with divider := t.divider + 1 }, t.reloadStep.2) := by
  obtain ⟨h1, h2, -⟩ := t.reloadStep_keeps
  rw [← t.falls_eq]
  simp only [Timer.tick, Timer.dividerStep, h1, h2]

/-- For 14 ticks after the input fell it does not fall again: the shortest period is 16 (60_exceptions.md R241). -/
theorem Timer.aboutToFall_later (t u : Timer) (k : Nat) (h : t.aboutToFall = true) (hk : 1 ≤ k) (hk' : k ≤ 14)
    (hd : u.divider = t.divider + BitVec.ofNat 16 k) (ht : u.tac = t.tac) : u.aboutToFall = false := by
  unfold Timer.aboutToFall at *
  rw [hd, ht]
  simp only [Bool.and_eq_true, decide_eq_true_eq] at h
  obtain ⟨h1, h2⟩ := h
  simp only [h1, Bool.true_and, decide_eq_false_iff_not]
  have hs : ∀ x : BitVec 3, timerSelect x = 9 ∨ timerSelect x = 3 ∨ timerSelect x = 5 ∨ timerSelect x = 7 := by decide
  have := t.divider.isLt
  rw [BitVec.toNat_add, BitVec.toNat_ofNat]
  rcases hs t.tac with e | e | e | e <;> rw [e] at h2 ⊢ <;> omega

end Sys2Proof.Machine
end

