-- ==== Sys2Proof/Laws/Invariant.lean ====
section
/-! SUPPORT. The invariant of the machine is kept by every operation that writes the peripherals or the bus. -/
namespace Sys2Proof.Machine

/-- The part of the invariant that memory accesses and ticks can touch. -/
def State.PeripheralInv (s : State) : Prop := s.timer.Inv ∧ s.dma.Inv ∧ s.hdma.Inv ∧ s.bus.mem.wf = true

theorem State.inv_iff (s : State) : s.Inv ↔ s.ControlInv ∧ s.PeripheralInv := Iff.rfl

theorem State.PeripheralInv.congr {s t : State} (h : s.PeripheralInv) (h1 : t.timer = s.timer) (h2 : t.dma = s.dma)
    (h3 : t.hdma = s.hdma) (h4 : t.bus.mem = s.bus.mem) : t.PeripheralInv := by
  unfold State.PeripheralInv
  rw [h1, h2, h3, h4]
  exact h

theorem ReadsOnly.peripheralInv {s t : State} (hr : ReadsOnly s t) (h : s.PeripheralInv) : t.PeripheralInv := by
  obtain ⟨n, rfl⟩ := hr
  exact h

theorem State.busWrite_peripheralInv (addr : Word) (v : Byte) (s : State) (h : s.PeripheralInv) :
    (s.busWrite addr v).PeripheralInv := by
  unfold State.busWrite
  split
  · exact ⟨h.1, h.2.1, h.2.2.1, Memory.write_wf _ addr v h.2.2.2⟩
  · exact h

theorem State.vramWrite_peripheralInv (addr : Word) (v : Byte) (s : State) (h : s.PeripheralInv) :
    (s.vramWrite addr v).PeripheralInv := by
  unfold State.vramWrite
  split
  · exact s.busWrite_peripheralInv addr v h
  · exact h

theorem State.oamWrite_peripheralInv (addr : Word) (v : Byte) (s : State) (h : s.PeripheralInv) :
    (s.oamWrite addr v).PeripheralInv := by
  unfold State.oamWrite
  split
  · exact s.busWrite_peripheralInv addr v h
  · exact h

/-! ## OAM-DMA -/

theorem OamDma.start_inv (v : Byte) (x : OamDma) : (x.start v).Inv := by
  simp [OamDma.Inv, OamDma.start]

/-! ## HDMA -/

theorem low_append (n : Nat) (hi : BitVec n) (lo : Byte) : (hi ++ lo).extractLsb' 0 4 = lo.extractLsb' 0 4 := by
  apply BitVec.eq_of_getLsbD_eq
  intro i h
  simp only [BitVec.getLsbD_extractLsb', BitVec.getLsbD_append, Nat.zero_add]
  simp [show i < 8 by omega]

theorem low_low (n : Nat) (x : BitVec n) : (x.extractLsb' 0 8).extractLsb' 0 4 = x.extractLsb' 0 4 := by
  apply BitVec.eq_of_getLsbD_eq
  intro i h
  simp only [BitVec.getLsbD_extractLsb', Nat.zero_add, h, show i < 8 by omega]
  simp

theorem Hdma.writeAddr_inv (r : CoreReg) (v : Byte) (x : Hdma) (h : x.Inv) : (x.writeAddr r v).Inv := by
  obtain ⟨h1, h2, h3, h4, h5⟩ := h
  have low : ∀ w : Byte, (w &&& 0xF0).extractLsb' 0 4 = 0#4 := by decide
  cases r <;> simp only [Hdma.writeAddr, Hdma.Inv] <;> refine ⟨?_, ?_, h3, h4, h5⟩ <;> first | exact h1 | exact h2 | skip
  · exact (low_append 8 v _).trans ((low_low 16 _).trans h1)
  · exact (low_append 8 _ _).trans (low v)
  · exact (low_append 5 _ _).trans ((low_low 13 _).trans h2)
  · exact (low_append 5 _ _).trans (low v)

theorem State.hdmaCopy_hdma (n : Nat) (s : State) : (s.hdmaCopy n).hdma = s.hdma := by
  induction n with
  | zero => rfl
  | succ i ih =>
    simp only [State.hdmaCopy, State.vramWrite]
    split
    · rw [(State.busWrite_peripherals _ _ _).2.2.2.2]; simp [ih]
    · simp [ih]

theorem State.hdmaCopy_timer_dma (n : Nat) (s : State) :
    (s.hdmaCopy n).timer = s.timer ∧ (s.hdmaCopy n).dma = s.dma ∧ (s.hdmaCopy n).ie = s.ie ∧ (s.hdmaCopy n).ifl = s.ifl := by
  induction n with
  | zero => exact ⟨rfl, rfl, rfl, rfl⟩
  | succ i ih =>
    simp only [State.hdmaCopy, State.vramWrite]
    split
    · obtain ⟨h1, h2, h3, h4, _⟩ := State.busWrite_peripherals
        ((s.hdmaCopy i).hdma.dstAt i) ((s.hdmaCopy i).coreByte ((s.hdmaCopy i).hdma.srcAt i))
        ((s.hdmaCopy i).afterCoreRead ((s.hdmaCopy i).hdma.srcAt i))
      rw [h1, h2, h3, h4]; simpa using ih
    · simpa using ih

theorem State.hdmaCopy_peripheralInv (n : Nat) (s : State) (h : s.PeripheralInv) : (s.hdmaCopy n).PeripheralInv := by
  induction n with
  | zero => exact h
  | succ i ih =>
    exact State.vramWrite_peripheralInv _ _ _ ((State.afterCoreRead_readsOnly _ _).peripheralInv ih)

theorem hdma_src_advances (x : BitVec 16) (h : x.extractLsb' 0 4 = 0#4) : (x + 16).extractLsb' 0 4 = 0#4 := by
  have h' := congrArg BitVec.toNat h
  apply BitVec.eq_of_toNat_eq
  simp at h' ⊢
  omega

theorem hdma_dst_advances (x : BitVec 13) : ((x + 16) &&& 0x1FF0).extractLsb' 0 4 = 0#4 := (hdmaDst_masked _).1

theorem State.hdmaStep_parts (s : State) : s.hdmaStep.hdma =
    { s.hdma with src := s.hdma.src + 16, dst := (s.hdma.dst + 16) &&& 0x1FF0, remaining := s.hdma.remaining - 1 } := by
  simp only [State.hdmaStep, State.hdmaBlock, State.hdmaCopy_hdma]

theorem State.hdmaStep_bus (s : State) : s.hdmaStep.bus = (s.hdmaCopy 16).bus := rfl

/-- What the HDMA engine's counters need so that a block keeps them in range. -/
theorem State.hdmaStep_rest (s : State) (h : s.timer.Inv ∧ s.dma.Inv ∧ s.bus.mem.wf = true) :
    s.hdmaStep.timer.Inv ∧ s.hdmaStep.dma.Inv ∧ s.hdmaStep.bus.mem.wf = true := by
  have hm : ∀ n, (s.hdmaCopy n).bus.mem.wf = true := by
    intro n
    induction n with
    | zero => exact h.2.2
    | succ i ih =>
      simp only [State.hdmaCopy, State.vramWrite]
      split
      · unfold State.busWrite
        split
        · exact Memory.write_wf _ _ _ (by simpa using ih)
        · simpa using ih
      · simpa using ih
  have ht := s.hdmaCopy_timer_dma 16
  refine ⟨?_, ?_, hm 16⟩
  · have : s.hdmaStep.timer = s.timer := ht.1
    rw [this]; exact h.1
  · have : s.hdmaStep.dma = s.dma := ht.2.1
    rw [this]; exact h.2.1

theorem State.hdmaBlocks_rest (n : Nat) (s : State) (h : s.timer.Inv ∧ s.dma.Inv ∧ s.bus.mem.wf = true) :
    (s.hdmaBlocks n).timer.Inv ∧ (s.hdmaBlocks n).dma.Inv ∧ (s.hdmaBlocks n).bus.mem.wf = true := by
  induction n generalizing s with
  | zero => exact h
  | succ k ih => exact ih _ (s.hdmaStep_rest h)

/-- The engine's registers after `n` blocks. -/
theorem State.hdmaBlocks_parts (n : Nat) (s : State) :
    (s.hdmaBlocks n).hdma.active = s.hdma.active ∧ (s.hdmaBlocks n).hdma.mode = s.hdma.mode ∧
    (s.hdmaBlocks n).hdma.stopped = s.hdma.stopped ∧ (s.hdmaBlocks n).hdma.remaining = s.hdma.remaining - n ∧
    (s.hdma.src.extractLsb' 0 4 = 0#4 → (s.hdmaBlocks n).hdma.src.extractLsb' 0 4 = 0#4) ∧
    (s.hdma.dst.extractLsb' 0 4 = 0#4 → (s.hdmaBlocks n).hdma.dst.extractLsb' 0 4 = 0#4) := by
  induction n generalizing s with
  | zero => simp [State.hdmaBlocks]
  | succ k ih =>
    obtain ⟨h1, h2, h3, h4, h5, h6⟩ := ih s.hdmaStep
    simp only [s.hdmaStep_parts] at h1 h2 h3 h4 h5 h6
    refine ⟨h1, h2, h3, ?_, fun h => h5 (hdma_src_advances _ h), fun h => h6 (hdma_dst_advances _)⟩
    simp only [State.hdmaBlocks, h4]; omega

theorem State.writeHdma5_peripheralInv (v : Byte) (s : State) (h : s.PeripheralInv) : (s.writeHdma5 v).PeripheralInv := by
  obtain ⟨h1, h2, ⟨a1, a2, a3, a4, a5⟩, h4⟩ := h
  have hcount : 1 ≤ hdmaBlockCount v ∧ hdmaBlockCount v ≤ 128 := by
    unfold hdmaBlockCount
    have : (v &&& 0x7F).toNat ≤ 127 := by revert v; decide
    omega
  unfold State.writeHdma5
  split
  · split
    · exact ⟨h1, h2, ⟨a1, a2, a3, a4, a5⟩, h4⟩
    · exact ⟨h1, h2, ⟨a1, a2, a3, by simp, by simp⟩, h4⟩
  · split
    · exact ⟨h1, h2, ⟨a1, a2, hcount.2, fun _ => ⟨rfl, hcount.1⟩, by simp⟩, h4⟩
    · have r := State.hdmaBlocks_rest (hdmaBlockCount v)
        { s with hdma := { s.hdma with remaining := hdmaBlockCount v, stopped := false, mode := .general } } ⟨h1, h2, h4⟩
      have p := State.hdmaBlocks_parts (hdmaBlockCount v)
        { s with hdma := { s.hdma with remaining := hdmaBlockCount v, stopped := false, mode := .general } }
      refine ⟨r.1, r.2.1, ⟨p.2.2.2.2.1 a1, p.2.2.2.2.2 a2, ?_, by simp, by simp⟩, r.2.2⟩
      simp only [p.2.2.2.1]; omega

theorem State.writeCoreReg_peripheralInv (r : CoreReg) (v : Byte) (s : State) (h : s.PeripheralInv) :
    (s.writeCoreReg r v).PeripheralInv := by
  obtain ⟨h1, h2, h3, h4⟩ := h
  cases r
  · exact ⟨s.timer.writeDiv_inv h1, h2, h3, h4⟩
  · exact ⟨Timer.writeTima_inv v _ h1, h2, h3, h4⟩
  · exact ⟨Timer.writeTma_inv v _ h1, h2, h3, h4⟩
  · exact ⟨Timer.writeTac_inv v _ h1, h2, h3, h4⟩
  · exact ⟨h1, h2, h3, h4⟩
  · exact ⟨h1, OamDma.start_inv v _, h3, h4⟩
  · exact ⟨h1, h2, Hdma.writeAddr_inv .hdma1 v _ h3, h4⟩
  · exact ⟨h1, h2, Hdma.writeAddr_inv .hdma2 v _ h3, h4⟩
  · exact ⟨h1, h2, Hdma.writeAddr_inv .hdma3 v _ h3, h4⟩
  · exact ⟨h1, h2, Hdma.writeAddr_inv .hdma4 v _ h3, h4⟩
  · exact State.writeHdma5_peripheralInv v s ⟨h1, h2, h3, h4⟩
  · exact ⟨h1, h2, h3, h4⟩

theorem State.memWrite_peripheralInv (addr : Word) (v : Byte) (s : State) (h : s.PeripheralInv) :
    (s.memWrite addr v).PeripheralInv := by
  unfold State.memWrite
  split
  · exact h
  · unfold State.coreWrite
    split
    · exact s.writeCoreReg_peripheralInv _ v h
    · exact s.busWrite_peripheralInv addr v h

end Sys2Proof.Machine
end

