-- ==== Sys2Proof/Laws/Exec.lean ====
section
/-! SUPPORT. The instructions by family: what `exec` answers for each, and the case split that names every one. -/
namespace Sys2Proof.Machine

/-! ## What `exec` answers for a family -/

theorem exec_ofLdRegReg (dst : Reg8) (src : Reg8) (s : State) : exec (.ofLdRegReg dst src) s = .next (ldReg dst src s) := by
  cases dst <;> cases src <;> rfl

theorem exec_ofLdRegN (r : Reg8) (n : Byte) (s : State) : exec (.ofLdRegN r n) s = .next (ldImm r n s) := by
  cases r <;> rfl

theorem exec_ofLdRegAtHl (r : Reg8) (s : State) : exec (.ofLdRegAtHl r) s = .next (ldFromHl r s) := by
  cases r <;> rfl

theorem exec_ofLdAtHlReg (r : Reg8) (s : State) : exec (.ofLdAtHlReg r) s = .next (ldToHl r s) := by
  cases r <;> rfl

theorem exec_ofAlu (op : AluOp) (src : Source) (s : State) : exec (.ofAlu op src) s = .next (alu op src s) := by
  cases op <;> rcases src with (_ | _) | _ | _ <;> rfl

theorem exec_ofInc (o : Loc) (s : State) : exec (.ofInc o) s = .next (inc8 o s) := by
  rcases o with (_ | _) | _ <;> rfl

theorem exec_ofDec (o : Loc) (s : State) : exec (.ofDec o) s = .next (dec8 o s) := by
  rcases o with (_ | _) | _ <;> rfl

theorem exec_ofLdPairNn (p : Reg16) (nn : Word) (s : State) : exec (.ofLdPairNn p nn) s = .next (ldPair p nn s) := by
  cases p <;> rfl

theorem exec_ofAddHl (p : Reg16) (s : State) : exec (.ofAddHl p) s = .next (addHl p s) := by
  cases p <;> rfl

theorem exec_ofIncPair (p : Reg16) (s : State) : exec (.ofIncPair p) s = .next (incPair p s) := by
  cases p <;> rfl

theorem exec_ofDecPair (p : Reg16) (s : State) : exec (.ofDecPair p) s = .next (decPair p s) := by
  cases p <;> rfl

theorem exec_ofPush (p : StackReg) (s : State) : exec (.ofPush p) s = .next (push p s) := by
  cases p <;> rfl

theorem exec_ofPop (p : StackReg) (s : State) : exec (.ofPop p) s = .next (pop p s) := by
  cases p <;> rfl

theorem exec_ofJp (cc : Cond) (nn : Word) (s : State) : exec (.ofJp cc nn) s = .next (jpCond cc nn s) := by
  cases cc <;> rfl

theorem exec_ofJr (cc : Cond) (e : Byte) (s : State) : exec (.ofJr cc e) s = .next (jrCond cc e s) := by
  cases cc <;> rfl

theorem exec_ofCall (cc : Cond) (nn : Word) (s : State) : exec (.ofCall cc nn) s = .next (callCond cc nn s) := by
  cases cc <;> rfl

theorem exec_ofRet (cc : Cond) (s : State) : exec (.ofRet cc) s = .next (retCond cc s) := by
  cases cc <;> rfl

theorem exec_ofRst (y : Fin 8) (s : State) : exec (.ofRst y) s = .next (rst y s) := by
  fin_cases y <;> rfl

theorem exec_ofUnassigned (u : Unassigned) (s : State) : exec (.ofUnassigned u) s = .next (illegal u s) := by
  cases u <;> rfl

theorem exec_ofRot (op : RotOp) (o : Loc) (s : State) : exec (.ofRot op o) s = .next (rot op o s) := by
  cases op <;> rcases o with (_ | _) | _ <;> rfl

theorem exec_ofBit (b : Fin 8) (o : Loc) (s : State) : exec (.ofBit b o) s = .next (testBit b o s) := by
  fin_cases b <;> rcases o with (_ | _) | _ <;> rfl

theorem exec_ofRes (b : Fin 8) (o : Loc) (s : State) : exec (.ofRes b o) s = .next (resBit b o s) := by
  fin_cases b <;> rcases o with (_ | _) | _ <;> rfl

theorem exec_ofSet (b : Fin 8) (o : Loc) (s : State) : exec (.ofSet b o) s = .next (setBit b o s) := by
  fin_cases b <;> rcases o with (_ | _) | _ <;> rfl

/-! ## Every instruction is one of these -/

/-- A property of every instruction, family by family. -/
theorem Instr.by_family {P : Instr → Prop}
    (hOfLdRegReg : ∀ dst src, P (.ofLdRegReg dst src))
    (hOfLdRegN : ∀ r n, P (.ofLdRegN r n))
    (hOfLdRegAtHl : ∀ r, P (.ofLdRegAtHl r))
    (hOfLdAtHlReg : ∀ r, P (.ofLdAtHlReg r))
    (hOfAlu : ∀ op src, P (.ofAlu op src))
    (hOfInc : ∀ o, P (.ofInc o))
    (hOfDec : ∀ o, P (.ofDec o))
    (hOfLdPairNn : ∀ p nn, P (.ofLdPairNn p nn))
    (hOfAddHl : ∀ p, P (.ofAddHl p))
    (hOfIncPair : ∀ p, P (.ofIncPair p))
    (hOfDecPair : ∀ p, P (.ofDecPair p))
    (hOfPush : ∀ p, P (.ofPush p))
    (hOfPop : ∀ p, P (.ofPop p))
    (hOfJp : ∀ cc nn, P (.ofJp cc nn))
    (hOfJr : ∀ cc e, P (.ofJr cc e))
    (hOfCall : ∀ cc nn, P (.ofCall cc nn))
    (hOfRet : ∀ cc, P (.ofRet cc))
    (hOfRst : ∀ y, P (.ofRst y))
    (hOfUnassigned : ∀ u, P (.ofUnassigned u))
    (hOfRot : ∀ op o, P (.ofRot op o))
    (hOfBit : ∀ b o, P (.ofBit b o))
    (hOfRes : ∀ b o, P (.ofRes b o))
    (hOfSet : ∀ b o, P (.ofSet b o))
    (hNop : P .nop)
    (hLdAtBcA : P .ldAtBcA)
    (hRlca : P .rlca)
    (hLdAtNnSp : ∀ nn, P (.ldAtNnSp nn))
    (hLdAAtBc : P .ldAAtBc)
    (hRrca : P .rrca)
    (hStop : ∀ x, P (.stop x))
    (hLdAtDeA : P .ldAtDeA)
    (hRla : P .rla)
    (hJrE : ∀ e, P (.jrE e))
    (hLdAAtDe : P .ldAAtDe)
    (hRra : P .rra)
    (hLdAtHlIncA : P .ldAtHlIncA)
    (hDaa : P .daa)
    (hLdAAtHlInc : P .ldAAtHlInc)
    (hCpl : P .cpl)
    (hLdAtHlDecA : P .ldAtHlDecA)
    (hLdAtHlN : ∀ n, P (.ldAtHlN n))
    (hScf : P .scf)
    (hLdAAtHlDec : P .ldAAtHlDec)
    (hCcf : P .ccf)
    (hHalt : P .halt)
    (hJpNn : ∀ nn, P (.jpNn nn))
    (hRet : P .ret)
    (hPrefixCb : ∀ op2, P (.prefixCb op2))
    (hCallNn : ∀ nn, P (.callNn nn))
    (hReti : P .reti)
    (hLdhAtNA : ∀ n, P (.ldhAtNA n))
    (hLdhAtCA : P .ldhAtCA)
    (hAddSpE : ∀ e, P (.addSpE e))
    (hJpHl : P .jpHl)
    (hLdAtNnA : ∀ nn, P (.ldAtNnA nn))
    (hLdhAAtN : ∀ n, P (.ldhAAtN n))
    (hLdhAAtC : P .ldhAAtC)
    (hDi : P .di)
    (hLdHlSpPlusE : ∀ e, P (.ldHlSpPlusE e))
    (hLdSpHl : P .ldSpHl)
    (hLdAAtNn : ∀ nn, P (.ldAAtNn nn))
    (hEi : P .ei)
    (i : Instr) : P i := by
  cases i with
  | nop => exact hNop
  | ldBcNn nn => exact hOfLdPairNn .bc nn
  | ldAtBcA => exact hLdAtBcA
  | incBc => exact hOfIncPair .bc
  | incB => exact hOfInc (.reg .b)
  | decB => exact hOfDec (.reg .b)
  | ldBN n => exact hOfLdRegN .b n
  | rlca => exact hRlca
  | ldAtNnSp nn => exact hLdAtNnSp nn
  | addHlBc => exact hOfAddHl .bc
  | ldAAtBc => exact hLdAAtBc
  | decBc => exact hOfDecPair .bc
  | incC => exact hOfInc (.reg .c)
  | decC => exact hOfDec (.reg .c)
  | ldCN n => exact hOfLdRegN .c n
  | rrca => exact hRrca
  | stop x => exact hStop x
  | ldDeNn nn => exact hOfLdPairNn .de nn
  | ldAtDeA => exact hLdAtDeA
  | incDe => exact hOfIncPair .de
  | incD => exact hOfInc (.reg .d)
  | decD => exact hOfDec (.reg .d)
  | ldDN n => exact hOfLdRegN .d n
  | rla => exact hRla
  | jrE e => exact hJrE e
  | addHlDe => exact hOfAddHl .de
  | ldAAtDe => exact hLdAAtDe
  | decDe => exact hOfDecPair .de
  | incE => exact hOfInc (.reg .e)
  | decE => exact hOfDec (.reg .e)
  | ldEN n => exact hOfLdRegN .e n
  | rra => exact hRra
  | jrNzE e => exact hOfJr .nz e
  | ldHlNn nn => exact hOfLdPairNn .hl nn
  | ldAtHlIncA => exact hLdAtHlIncA
  | incHl => exact hOfIncPair .hl
  | incH => exact hOfInc (.reg .h)
  | decH => exact hOfDec (.reg .h)
  | ldHN n => exact hOfLdRegN .h n
  | daa => exact hDaa
  | jrZE e => exact hOfJr .z e
  | addHlHl => exact hOfAddHl .hl
  | ldAAtHlInc => exact hLdAAtHlInc
  | decHl => exact hOfDecPair .hl
  | incL => exact hOfInc (.reg .l)
  | decL => exact hOfDec (.reg .l)
  | ldLN n => exact hOfLdRegN .l n
  | cpl => exact hCpl
  | jrNcE e => exact hOfJr .nc e
  | ldSpNn nn => exact hOfLdPairNn .sp nn
  | ldAtHlDecA => exact hLdAtHlDecA
  | incSp => exact hOfIncPair .sp
  | incAtHl => exact hOfInc .atHl
  | decAtHl => exact hOfDec .atHl
  | ldAtHlN n => exact hLdAtHlN n
  | scf => exact hScf
  | jrCE e => exact hOfJr .c e
  | addHlSp => exact hOfAddHl .sp
  | ldAAtHlDec => exact hLdAAtHlDec
  | decSp => exact hOfDecPair .sp
  | incA => exact hOfInc (.reg .a)
  | decA => exact hOfDec (.reg .a)
  | ldAN n => exact hOfLdRegN .a n
  | ccf => exact hCcf
  | ldBB => exact hOfLdRegReg .b .b
  | ldBC => exact hOfLdRegReg .b .c
  | ldBD => exact hOfLdRegReg .b .d
  | ldBE => exact hOfLdRegReg .b .e
  | ldBH => exact hOfLdRegReg .b .h
  | ldBL => exact hOfLdRegReg .b .l
  | ldBAtHl => exact hOfLdRegAtHl .b
  | ldBA => exact hOfLdRegReg .b .a
  | ldCB => exact hOfLdRegReg .c .b
  | ldCC => exact hOfLdRegReg .c .c
  | ldCD => exact hOfLdRegReg .c .d
  | ldCE => exact hOfLdRegReg .c .e
  | ldCH => exact hOfLdRegReg .c .h
  | ldCL => exact hOfLdRegReg .c .l
  | ldCAtHl => exact hOfLdRegAtHl .c
  | ldCA => exact hOfLdRegReg .c .a
  | ldDB => exact hOfLdRegReg .d .b
  | ldDC => exact hOfLdRegReg .d .c
  | ldDD => exact hOfLdRegReg .d .d
  | ldDE => exact hOfLdRegReg .d .e
  | ldDH => exact hOfLdRegReg .d .h
  | ldDL => exact hOfLdRegReg .d .l
  | ldDAtHl => exact hOfLdRegAtHl .d
  | ldDA => exact hOfLdRegReg .d .a
  | ldEB => exact hOfLdRegReg .e .b
  | ldEC => exact hOfLdRegReg .e .c
  | ldED => exact hOfLdRegReg .e .d
  | ldEE => exact hOfLdRegReg .e .e
  | ldEH => exact hOfLdRegReg .e .h
  | ldEL => exact hOfLdRegReg .e .l
  | ldEAtHl => exact hOfLdRegAtHl .e
  | ldEA => exact hOfLdRegReg .e .a
  | ldHB => exact hOfLdRegReg .h .b
  | ldHC => exact hOfLdRegReg .h .c
  | ldHD => exact hOfLdRegReg .h .d
  | ldHE => exact hOfLdRegReg .h .e
  | ldHH => exact hOfLdRegReg .h .h
  | ldHL => exact hOfLdRegReg .h .l
  | ldHAtHl => exact hOfLdRegAtHl .h
  | ldHA => exact hOfLdRegReg .h .a
  | ldLB => exact hOfLdRegReg .l .b
  | ldLC => exact hOfLdRegReg .l .c
  | ldLD => exact hOfLdRegReg .l .d
  | ldLE => exact hOfLdRegReg .l .e
  | ldLH => exact hOfLdRegReg .l .h
  | ldLL => exact hOfLdRegReg .l .l
  | ldLAtHl => exact hOfLdRegAtHl .l
  | ldLA => exact hOfLdRegReg .l .a
  | ldAtHlB => exact hOfLdAtHlReg .b
  | ldAtHlC => exact hOfLdAtHlReg .c
  | ldAtHlD => exact hOfLdAtHlReg .d
  | ldAtHlE => exact hOfLdAtHlReg .e
  | ldAtHlH => exact hOfLdAtHlReg .h
  | ldAtHlL => exact hOfLdAtHlReg .l
  | halt => exact hHalt
  | ldAtHlA => exact hOfLdAtHlReg .a
  | ldAB => exact hOfLdRegReg .a .b
  | ldAC => exact hOfLdRegReg .a .c
  | ldAD => exact hOfLdRegReg .a .d
  | ldAE => exact hOfLdRegReg .a .e
  | ldAH => exact hOfLdRegReg .a .h
  | ldAL => exact hOfLdRegReg .a .l
  | ldAAtHl => exact hOfLdRegAtHl .a
  | ldAA => exact hOfLdRegReg .a .a
  | addAB => exact hOfAlu .add (.reg .b)
  | addAC => exact hOfAlu .add (.reg .c)
  | addAD => exact hOfAlu .add (.reg .d)
  | addAE => exact hOfAlu .add (.reg .e)
  | addAH => exact hOfAlu .add (.reg .h)
  | addAL => exact hOfAlu .add (.reg .l)
  | addAAtHl => exact hOfAlu .add .atHl
  | addAA => exact hOfAlu .add (.reg .a)
  | adcAB => exact hOfAlu .adc (.reg .b)
  | adcAC => exact hOfAlu .adc (.reg .c)
  | adcAD => exact hOfAlu .adc (.reg .d)
  | adcAE => exact hOfAlu .adc (.reg .e)
  | adcAH => exact hOfAlu .adc (.reg .h)
  | adcAL => exact hOfAlu .adc (.reg .l)
  | adcAAtHl => exact hOfAlu .adc .atHl
  | adcAA => exact hOfAlu .adc (.reg .a)
  | subB => exact hOfAlu .sub (.reg .b)
  | subC => exact hOfAlu .sub (.reg .c)
  | subD => exact hOfAlu .sub (.reg .d)
  | subE => exact hOfAlu .sub (.reg .e)
  | subH => exact hOfAlu .sub (.reg .h)
  | subL => exact hOfAlu .sub (.reg .l)
  | subAtHl => exact hOfAlu .sub .atHl
  | subA => exact hOfAlu .sub (.reg .a)
  | sbcAB => exact hOfAlu .sbc (.reg .b)
  | sbcAC => exact hOfAlu .sbc (.reg .c)
  | sbcAD => exact hOfAlu .sbc (.reg .d)
  | sbcAE => exact hOfAlu .sbc (.reg .e)
  | sbcAH => exact hOfAlu .sbc (.reg .h)
  | sbcAL => exact hOfAlu .sbc (.reg .l)
  | sbcAAtHl => exact hOfAlu .sbc .atHl
  | sbcAA => exact hOfAlu .sbc (.reg .a)
  | andB => exact hOfAlu .and (.reg .b)
  | andC => exact hOfAlu .and (.reg .c)
  | andD => exact hOfAlu .and (.reg .d)
  | andE => exact hOfAlu .and (.reg .e)
  | andH => exact hOfAlu .and (.reg .h)
  | andL => exact hOfAlu .and (.reg .l)
  | andAtHl => exact hOfAlu .and .atHl
  | andA => exact hOfAlu .and (.reg .a)
  | xorB => exact hOfAlu .xor (.reg .b)
  | xorC => exact hOfAlu .xor (.reg .c)
  | xorD => exact hOfAlu .xor (.reg .d)
  | xorE => exact hOfAlu .xor (.reg .e)
  | xorH => exact hOfAlu .xor (.reg .h)
  | xorL => exact hOfAlu .xor (.reg .l)
  | xorAtHl => exact hOfAlu .xor .atHl
  | xorA => exact hOfAlu .xor (.reg .a)
  | orB => exact hOfAlu .or (.reg .b)
  | orC => exact hOfAlu .or (.reg .c)
  | orD => exact hOfAlu .or (.reg .d)
  | orE => exact hOfAlu .or (.reg .e)
  | orH => exact hOfAlu .or (.reg .h)
  | orL => exact hOfAlu .or (.reg .l)
  | orAtHl => exact hOfAlu .or .atHl
  | orA => exact hOfAlu .or (.reg .a)
  | cpB => exact hOfAlu .cp (.reg .b)
  | cpC => exact hOfAlu .cp (.reg .c)
  | cpD => exact hOfAlu .cp (.reg .d)
  | cpE => exact hOfAlu .cp (.reg .e)
  | cpH => exact hOfAlu .cp (.reg .h)
  | cpL => exact hOfAlu .cp (.reg .l)
  | cpAtHl => exact hOfAlu .cp .atHl
  | cpA => exact hOfAlu .cp (.reg .a)
  | retNz => exact hOfRet .nz
  | popBc => exact hOfPop .bc
  | jpNzNn nn => exact hOfJp .nz nn
  | jpNn nn => exact hJpNn nn
  | callNzNn nn => exact hOfCall .nz nn
  | pushBc => exact hOfPush .bc
  | addAN n => exact hOfAlu .add (.imm n)
  | rst00 => exact hOfRst 0
  | retZ => exact hOfRet .z
  | ret => exact hRet
  | jpZNn nn => exact hOfJp .z nn
  | prefixCb op2 => exact hPrefixCb op2
  | callZNn nn => exact hOfCall .z nn
  | callNn nn => exact hCallNn nn
  | adcAN n => exact hOfAlu .adc (.imm n)
  | rst08 => exact hOfRst 1
  | retNc => exact hOfRet .nc
  | popDe => exact hOfPop .de
  | jpNcNn nn => exact hOfJp .nc nn
  | unassignedD3 => exact hOfUnassigned .d3
  | callNcNn nn => exact hOfCall .nc nn
  | pushDe => exact hOfPush .de
  | subN n => exact hOfAlu .sub (.imm n)
  | rst10 => exact hOfRst 2
  | retC => exact hOfRet .c
  | reti => exact hReti
  | jpCNn nn => exact hOfJp .c nn
  | unassignedDB => exact hOfUnassigned .db
  | callCNn nn => exact hOfCall .c nn
  | unassignedDD => exact hOfUnassigned .dd
  | sbcAN n => exact hOfAlu .sbc (.imm n)
  | rst18 => exact hOfRst 3
  | ldhAtNA n => exact hLdhAtNA n
  | popHl => exact hOfPop .hl
  | ldhAtCA => exact hLdhAtCA
  | unassignedE3 => exact hOfUnassigned .e3
  | unassignedE4 => exact hOfUnassigned .e4
  | pushHl => exact hOfPush .hl
  | andN n => exact hOfAlu .and (.imm n)
  | rst20 => exact hOfRst 4
  | addSpE e => exact hAddSpE e
  | jpHl => exact hJpHl
  | ldAtNnA nn => exact hLdAtNnA nn
  | unassignedEB => exact hOfUnassigned .eb
  | unassignedEC => exact hOfUnassigned .ec
  | unassignedED => exact hOfUnassigned .ed
  | xorN n => exact hOfAlu .xor (.imm n)
  | rst28 => exact hOfRst 5
  | ldhAAtN n => exact hLdhAAtN n
  | popAf => exact hOfPop .af
  | ldhAAtC => exact hLdhAAtC
  | di => exact hDi
  | unassignedF4 => exact hOfUnassigned .f4
  | pushAf => exact hOfPush .af
  | orN n => exact hOfAlu .or (.imm n)
  | rst30 => exact hOfRst 6
  | ldHlSpPlusE e => exact hLdHlSpPlusE e
  | ldSpHl => exact hLdSpHl
  | ldAAtNn nn => exact hLdAAtNn nn
  | ei => exact hEi
  | unassignedFC => exact hOfUnassigned .fc
  | unassignedFD => exact hOfUnassigned .fd
  | cpN n => exact hOfAlu .cp (.imm n)
  | rst38 => exact hOfRst 7
  | rlcB => exact hOfRot .rlc (.reg .b)
  | rlcC => exact hOfRot .rlc (.reg .c)
  | rlcD => exact hOfRot .rlc (.reg .d)
  | rlcE => exact hOfRot .rlc (.reg .e)
  | rlcH => exact hOfRot .rlc (.reg .h)
  | rlcL => exact hOfRot .rlc (.reg .l)
  | rlcAtHl => exact hOfRot .rlc .atHl
  | rlcA => exact hOfRot .rlc (.reg .a)
  | rrcB => exact hOfRot .rrc (.reg .b)
  | rrcC => exact hOfRot .rrc (.reg .c)
  | rrcD => exact hOfRot .rrc (.reg .d)
  | rrcE => exact hOfRot .rrc (.reg .e)
  | rrcH => exact hOfRot .rrc (.reg .h)
  | rrcL => exact hOfRot .rrc (.reg .l)
  | rrcAtHl => exact hOfRot .rrc .atHl
  | rrcA => exact hOfRot .rrc (.reg .a)
  | rlB => exact hOfRot .rl (.reg .b)
  | rlC => exact hOfRot .rl (.reg .c)
  | rlD => exact hOfRot .rl (.reg .d)
  | rlE => exact hOfRot .rl (.reg .e)
  | rlH => exact hOfRot .rl (.reg .h)
  | rlL => exact hOfRot .rl (.reg .l)
  | rlAtHl => exact hOfRot .rl .atHl
  | rlA => exact hOfRot .rl (.reg .a)
  | rrB => exact hOfRot .rr (.reg .b)
  | rrC => exact hOfRot .rr (.reg .c)
  | rrD => exact hOfRot .rr (.reg .d)
  | rrE => exact hOfRot .rr (.reg .e)
  | rrH => exact hOfRot .rr (.reg .h)
  | rrL => exact hOfRot .rr (.reg .l)
  | rrAtHl => exact hOfRot .rr .atHl
  | rrA => exact hOfRot .rr (.reg .a)
  | slaB => exact hOfRot .sla (.reg .b)
  | slaC => exact hOfRot .sla (.reg .c)
  | slaD => exact hOfRot .sla (.reg .d)
  | slaE => exact hOfRot .sla (.reg .e)
  | slaH => exact hOfRot .sla (.reg .h)
  | slaL => exact hOfRot .sla (.reg .l)
  | slaAtHl => exact hOfRot .sla .atHl
  | slaA => exact hOfRot .sla (.reg .a)
  | sraB => exact hOfRot .sra (.reg .b)
  | sraC => exact hOfRot .sra (.reg .c)
  | sraD => exact hOfRot .sra (.reg .d)
  | sraE => exact hOfRot .sra (.reg .e)
  | sraH => exact hOfRot .sra (.reg .h)
  | sraL => exact hOfRot .sra (.reg .l)
  | sraAtHl => exact hOfRot .sra .atHl
  | sraA => exact hOfRot .sra (.reg .a)
  | swapB => exact hOfRot .swap (.reg .b)
  | swapC => exact hOfRot .swap (.reg .c)
  | swapD => exact hOfRot .swap (.reg .d)
  | swapE => exact hOfRot .swap (.reg .e)
  | swapH => exact hOfRot .swap (.reg .h)
  | swapL => exact hOfRot .swap (.reg .l)
  | swapAtHl => exact hOfRot .swap .atHl
  | swapA => exact hOfRot .swap (.reg .a)
  | srlB => exact hOfRot .srl (.reg .b)
  | srlC => exact hOfRot .srl (.reg .c)
  | srlD => exact hOfRot .srl (.reg .d)
  | srlE => exact hOfRot .srl (.reg .e)
  | srlH => exact hOfRot .srl (.reg .h)
  | srlL => exact hOfRot .srl (.reg .l)
  | srlAtHl => exact hOfRot .srl .atHl
  | srlA => exact hOfRot .srl (.reg .a)
  | bit0B => exact hOfBit 0 (.reg .b)
  | bit0C => exact hOfBit 0 (.reg .c)
  | bit0D => exact hOfBit 0 (.reg .d)
  | bit0E => exact hOfBit 0 (.reg .e)
  | bit0H => exact hOfBit 0 (.reg .h)
  | bit0L => exact hOfBit 0 (.reg .l)
  | bit0AtHl => exact hOfBit 0 .atHl
  | bit0A => exact hOfBit 0 (.reg .a)
  | bit1B => exact hOfBit 1 (.reg .b)
  | bit1C => exact hOfBit 1 (.reg .c)
  | bit1D => exact hOfBit 1 (.reg .d)
  | bit1E => exact hOfBit 1 (.reg .e)
  | bit1H => exact hOfBit 1 (.reg .h)
  | bit1L => exact hOfBit 1 (.reg .l)
  | bit1AtHl => exact hOfBit 1 .atHl
  | bit1A => exact hOfBit 1 (.reg .a)
  | bit2B => exact hOfBit 2 (.reg .b)
  | bit2C => exact hOfBit 2 (.reg .c)
  | bit2D => exact hOfBit 2 (.reg .d)
  | bit2E => exact hOfBit 2 (.reg .e)
  | bit2H => exact hOfBit 2 (.reg .h)
  | bit2L => exact hOfBit 2 (.reg .l)
  | bit2AtHl => exact hOfBit 2 .atHl
  | bit2A => exact hOfBit 2 (.reg .a)
  | bit3B => exact hOfBit 3 (.reg .b)
  | bit3C => exact hOfBit 3 (.reg .c)
  | bit3D => exact hOfBit 3 (.reg .d)
  | bit3E => exact hOfBit 3 (.reg .e)
  | bit3H => exact hOfBit 3 (.reg .h)
  | bit3L => exact hOfBit 3 (.reg .l)
  | bit3AtHl => exact hOfBit 3 .atHl
  | bit3A => exact hOfBit 3 (.reg .a)
  | bit4B => exact hOfBit 4 (.reg .b)
  | bit4C => exact hOfBit 4 (.reg .c)
  | bit4D => exact hOfBit 4 (.reg .d)
  | bit4E => exact hOfBit 4 (.reg .e)
  | bit4H => exact hOfBit 4 (.reg .h)
  | bit4L => exact hOfBit 4 (.reg .l)
  | bit4AtHl => exact hOfBit 4 .atHl
  | bit4A => exact hOfBit 4 (.reg .a)
  | bit5B => exact hOfBit 5 (.reg .b)
  | bit5C => exact hOfBit 5 (.reg .c)
  | bit5D => exact hOfBit 5 (.reg .d)
  | bit5E => exact hOfBit 5 (.reg .e)
  | bit5H => exact hOfBit 5 (.reg .h)
  | bit5L => exact hOfBit 5 (.reg .l)
  | bit5AtHl => exact hOfBit 5 .atHl
  | bit5A => exact hOfBit 5 (.reg .a)
  | bit6B => exact hOfBit 6 (.reg .b)
  | bit6C => exact hOfBit 6 (.reg .c)
  | bit6D => exact hOfBit 6 (.reg .d)
  | bit6E => exact hOfBit 6 (.reg .e)
  | bit6H => exact hOfBit 6 (.reg .h)
  | bit6L => exact hOfBit 6 (.reg .l)
  | bit6AtHl => exact hOfBit 6 .atHl
  | bit6A => exact hOfBit 6 (.reg .a)
  | bit7B => exact hOfBit 7 (.reg .b)
  | bit7C => exact hOfBit 7 (.reg .c)
  | bit7D => exact hOfBit 7 (.reg .d)
  | bit7E => exact hOfBit 7 (.reg .e)
  | bit7H => exact hOfBit 7 (.reg .h)
  | bit7L => exact hOfBit 7 (.reg .l)
  | bit7AtHl => exact hOfBit 7 .atHl
  | bit7A => exact hOfBit 7 (.reg .a)
  | res0B => exact hOfRes 0 (.reg .b)
  | res0C => exact hOfRes 0 (.reg .c)
  | res0D => exact hOfRes 0 (.reg .d)
  | res0E => exact hOfRes 0 (.reg .e)
  | res0H => exact hOfRes 0 (.reg .h)
  | res0L => exact hOfRes 0 (.reg .l)
  | res0AtHl => exact hOfRes 0 .atHl
  | res0A => exact hOfRes 0 (.reg .a)
  | res1B => exact hOfRes 1 (.reg .b)
  | res1C => exact hOfRes 1 (.reg .c)
  | res1D => exact hOfRes 1 (.reg .d)
  | res1E => exact hOfRes 1 (.reg .e)
  | res1H => exact hOfRes 1 (.reg .h)
  | res1L => exact hOfRes 1 (.reg .l)
  | res1AtHl => exact hOfRes 1 .atHl
  | res1A => exact hOfRes 1 (.reg .a)
  | res2B => exact hOfRes 2 (.reg .b)
  | res2C => exact hOfRes 2 (.reg .c)
  | res2D => exact hOfRes 2 (.reg .d)
  | res2E => exact hOfRes 2 (.reg .e)
  | res2H => exact hOfRes 2 (.reg .h)
  | res2L => exact hOfRes 2 (.reg .l)
  | res2AtHl => exact hOfRes 2 .atHl
  | res2A => exact hOfRes 2 (.reg .a)
  | res3B => exact hOfRes 3 (.reg .b)
  | res3C => exact hOfRes 3 (.reg .c)
  | res3D => exact hOfRes 3 (.reg .d)
  | res3E => exact hOfRes 3 (.reg .e)
  | res3H => exact hOfRes 3 (.reg .h)
  | res3L => exact hOfRes 3 (.reg .l)
  | res3AtHl => exact hOfRes 3 .atHl
  | res3A => exact hOfRes 3 (.reg .a)
  | res4B => exact hOfRes 4 (.reg .b)
  | res4C => exact hOfRes 4 (.reg .c)
  | res4D => exact hOfRes 4 (.reg .d)
  | res4E => exact hOfRes 4 (.reg .e)
  | res4H => exact hOfRes 4 (.reg .h)
  | res4L => exact hOfRes 4 (.reg .l)
  | res4AtHl => exact hOfRes 4 .atHl
  | res4A => exact hOfRes 4 (.reg .a)
  | res5B => exact hOfRes 5 (.reg .b)
  | res5C => exact hOfRes 5 (.reg .c)
  | res5D => exact hOfRes 5 (.reg .d)
  | res5E => exact hOfRes 5 (.reg .e)
  | res5H => exact hOfRes 5 (.reg .h)
  | res5L => exact hOfRes 5 (.reg .l)
  | res5AtHl => exact hOfRes 5 .atHl
  | res5A => exact hOfRes 5 (.reg .a)
  | res6B => exact hOfRes 6 (.reg .b)
  | res6C => exact hOfRes 6 (.reg .c)
  | res6D => exact hOfRes 6 (.reg .d)
  | res6E => exact hOfRes 6 (.reg .e)
  | res6H => exact hOfRes 6 (.reg .h)
  | res6L => exact hOfRes 6 (.reg .l)
  | res6AtHl => exact hOfRes 6 .atHl
  | res6A => exact hOfRes 6 (.reg .a)
  | res7B => exact hOfRes 7 (.reg .b)
  | res7C => exact hOfRes 7 (.reg .c)
  | res7D => exact hOfRes 7 (.reg .d)
  | res7E => exact hOfRes 7 (.reg .e)
  | res7H => exact hOfRes 7 (.reg .h)
  | res7L => exact hOfRes 7 (.reg .l)
  | res7AtHl => exact hOfRes 7 .atHl
  | res7A => exact hOfRes 7 (.reg .a)
  | set0B => exact hOfSet 0 (.reg .b)
  | set0C => exact hOfSet 0 (.reg .c)
  | set0D => exact hOfSet 0 (.reg .d)
  | set0E => exact hOfSet 0 (.reg .e)
  | set0H => exact hOfSet 0 (.reg .h)
  | set0L => exact hOfSet 0 (.reg .l)
  | set0AtHl => exact hOfSet 0 .atHl
  | set0A => exact hOfSet 0 (.reg .a)
  | set1B => exact hOfSet 1 (.reg .b)
  | set1C => exact hOfSet 1 (.reg .c)
  | set1D => exact hOfSet 1 (.reg .d)
  | set1E => exact hOfSet 1 (.reg .e)
  | set1H => exact hOfSet 1 (.reg .h)
  | set1L => exact hOfSet 1 (.reg .l)
  | set1AtHl => exact hOfSet 1 .atHl
  | set1A => exact hOfSet 1 (.reg .a)
  | set2B => exact hOfSet 2 (.reg .b)
  | set2C => exact hOfSet 2 (.reg .c)
  | set2D => exact hOfSet 2 (.reg .d)
  | set2E => exact hOfSet 2 (.reg .e)
  | set2H => exact hOfSet 2 (.reg .h)
  | set2L => exact hOfSet 2 (.reg .l)
  | set2AtHl => exact hOfSet 2 .atHl
  | set2A => exact hOfSet 2 (.reg .a)
  | set3B => exact hOfSet 3 (.reg .b)
  | set3C => exact hOfSet 3 (.reg .c)
  | set3D => exact hOfSet 3 (.reg .d)
  | set3E => exact hOfSet 3 (.reg .e)
  | set3H => exact hOfSet 3 (.reg .h)
  | set3L => exact hOfSet 3 (.reg .l)
  | set3AtHl => exact hOfSet 3 .atHl
  | set3A => exact hOfSet 3 (.reg .a)
  | set4B => exact hOfSet 4 (.reg .b)
  | set4C => exact hOfSet 4 (.reg .c)
  | set4D => exact hOfSet 4 (.reg .d)
  | set4E => exact hOfSet 4 (.reg .e)
  | set4H => exact hOfSet 4 (.reg .h)
  | set4L => exact hOfSet 4 (.reg .l)
  | set4AtHl => exact hOfSet 4 .atHl
  | set4A => exact hOfSet 4 (.reg .a)
  | set5B => exact hOfSet 5 (.reg .b)
  | set5C => exact hOfSet 5 (.reg .c)
  | set5D => exact hOfSet 5 (.reg .d)
  | set5E => exact hOfSet 5 (.reg .e)
  | set5H => exact hOfSet 5 (.reg .h)
  | set5L => exact hOfSet 5 (.reg .l)
  | set5AtHl => exact hOfSet 5 .atHl
  | set5A => exact hOfSet 5 (.reg .a)
  | set6B => exact hOfSet 6 (.reg .b)
  | set6C => exact hOfSet 6 (.reg .c)
  | set6D => exact hOfSet 6 (.reg .d)
  | set6E => exact hOfSet 6 (.reg .e)
  | set6H => exact hOfSet 6 (.reg .h)
  | set6L => exact hOfSet 6 (.reg .l)
  | set6AtHl => exact hOfSet 6 .atHl
  | set6A => exact hOfSet 6 (.reg .a)
  | set7B => exact hOfSet 7 (.reg .b)
  | set7C => exact hOfSet 7 (.reg .c)
  | set7D => exact hOfSet 7 (.reg .d)
  | set7E => exact hOfSet 7 (.reg .e)
  | set7H => exact hOfSet 7 (.reg .h)
  | set7L => exact hOfSet 7 (.reg .l)
  | set7AtHl => exact hOfSet 7 .atHl
  | set7A => exact hOfSet 7 (.reg .a)

end Sys2Proof.Machine
end

