-- ==== Sys2Proof/Laws/Effects.lean ====
section
/-! SUPPORT. What an instruction can do, said once: every one answers a next state, and all but seven leave the control state. -/
namespace Sys2Proof.Machine

/-- The effect of an instruction that transfers data or control: the control state stays, F's low nibble stays 0, and the
peripherals stay in their ranges. -/
structure Ordinary (s t : State) : Prop where
  control : ControlKept s t
  flags : s.f &&& 0x0F = 0 → t.f &&& 0x0F = 0
  peripherals : s.PeripheralInv → t.PeripheralInv

theorem ControlKept.refl (s : State) : ControlKept s s := ⟨rfl, rfl, rfl, rfl, rfl, rfl, rfl, rfl, rfl, rfl, rfl⟩

theorem ControlKept.trans {s t u : State} (h1 : ControlKept s t) (h2 : ControlKept t u) : ControlKept s u := by
  obtain ⟨a1, a2, a3, a4, a5, a6, a7, a8, a9, a10, a11⟩ := h1
  obtain ⟨b1, b2, b3, b4, b5, b6, b7, b8, b9, b10, b11⟩ := h2
  exact ⟨b1.trans a1, b2.trans a2, b3.trans a3, b4.trans a4, b5.trans a5, b6.trans a6, b7.trans a7, b8.trans a8,
    b9.trans a9, b10.trans a10, b11.trans a11⟩

theorem Ordinary.refl (s : State) : Ordinary s s := ⟨.refl s, id, id⟩

theorem Ordinary.trans {s t u : State} (h1 : Ordinary s t) (h2 : Ordinary t u) : Ordinary s u :=
  ⟨h1.control.trans h2.control, h2.flags ∘ h1.flags, h2.peripherals ∘ h1.peripherals⟩

theorem ReadsOnly.ordinary {s t : State} (h : ReadsOnly s t) : Ordinary s t := by
  refine ⟨h.controlKept, ?_, h.peripheralInv⟩
  obtain ⟨n, rfl⟩ := h
  exact id

theorem State.memWrite_ordinary (addr : Word) (v : Byte) (s : State) : Ordinary s (s.memWrite addr v) :=
  ⟨(s.memWrite_writesOnly addr v).controlKept, by simp, s.memWrite_peripheralInv addr v⟩

theorem State.setReg_ordinary (r : Reg8) (v : Byte) (s : State) : Ordinary s (s.setReg r v) := by
  cases r <;> exact ⟨.refl s, id, id⟩

theorem State.setPair_ordinary (p : Reg16) (v : Word) (s : State) : Ordinary s (s.setPair p v) := by
  cases p <;> exact ⟨.refl s, id, id⟩

theorem State.setHl_ordinary (v : Word) (s : State) : Ordinary s (s.setHl v) := ⟨.refl s, id, id⟩

theorem State.setFlags_ordinary (v : Byte) (s : State) : Ordinary s (s.setFlags v) :=
  ⟨.refl s, fun _ => and_f0_low v, id⟩

theorem State.putFlags_ordinary (z n h c : Bool) (s : State) : Ordinary s (s.putFlags z n h c) := s.setFlags_ordinary _

theorem State.setStackReg_ordinary (p : StackReg) (v : Word) (s : State) : Ordinary s (s.setStackReg p v) := by
  cases p <;> first | exact ⟨.refl s, id, id⟩ | exact ⟨.refl s, fun _ => and_f0_low _, id⟩

theorem State.setA_ordinary (v : Byte) (s : State) : Ordinary s { s with a := v } := ⟨.refl s, id, id⟩
theorem State.setPc_ordinary (v : Word) (s : State) : Ordinary s { s with pc := v } := ⟨.refl s, id, id⟩
theorem State.setSp_ordinary (v : Word) (s : State) : Ordinary s { s with sp := v } := ⟨.refl s, id, id⟩

theorem State.afterPop_ordinary (s : State) : Ordinary s s.afterPop :=
  (s.afterRead_readsOnly s.sp).ordinary.trans
    (((s.afterRead s.sp).afterRead_readsOnly (s.sp + 1)).ordinary.trans (State.setSp_ordinary (s.sp + 2) _))

theorem State.push16_ordinary (v : Word) (s : State) : Ordinary s (s.push16 v) :=
  (s.setSp_ordinary (s.sp - 1)).trans ((State.memWrite_ordinary _ _ _).trans
    ((State.setSp_ordinary _ _).trans (State.memWrite_ordinary _ _ _)))

theorem State.writeLoc_ordinary (o : Loc) (v : Byte) (s : State) : Ordinary s (s.writeLoc o v) := by
  cases o
  · exact s.setReg_ordinary _ v
  · exact s.memWrite_ordinary _ v

theorem modifyLoc_ordinary (o : Loc) (v : Byte) (s : State) : Ordinary s ((s.afterLoc o).writeLoc o v) :=
  (s.afterLoc_readsOnly o).ordinary.trans (State.writeLoc_ordinary o v _)

theorem ifCond_ordinary (cc : Cond) (f : State → State) (s : State) (h : Ordinary s (f s)) : Ordinary s (ifCond cc f s) := by
  unfold ifCond
  split
  · exact h
  · exact .refl s

theorem ldFromMem_ordinary (r : Reg8) (addr : Word) (s : State) : Ordinary s (ldFromMem r addr s) :=
  (s.afterRead_readsOnly addr).ordinary.trans (State.setReg_ordinary r _ _)

theorem call_ordinary (t : Word) (s : State) : Ordinary s (call t s) :=
  (s.push16_ordinary s.pc).trans (State.setPc_ordinary t _)

theorem ret_ordinary (s : State) : Ordinary s (ret s) := s.afterPop_ordinary.trans (State.setPc_ordinary _ _)

theorem pop_ordinary (p : StackReg) (s : State) : Ordinary s (pop p s) :=
  s.afterPop_ordinary.trans (State.setStackReg_ordinary p _ _)

theorem alu_ordinary (op : AluOp) (src : Source) (s : State) : Ordinary s (alu op src s) :=
  (s.afterSource_readsOnly src).ordinary.trans ((State.setA_ordinary _ _).trans (State.setFlags_ordinary _ _))

theorem inc8_ordinary (o : Loc) (s : State) : Ordinary s (inc8 o s) :=
  (modifyLoc_ordinary o _ s).trans (State.setFlags_ordinary _ _)

theorem dec8_ordinary (o : Loc) (s : State) : Ordinary s (dec8 o s) :=
  (modifyLoc_ordinary o _ s).trans (State.setFlags_ordinary _ _)

theorem rotA_ordinary (op : RotOp) (s : State) : Ordinary s (rotA op s) :=
  (s.setA_ordinary _).trans (State.putFlags_ordinary _ _ _ _ _)

theorem rot_ordinary (op : RotOp) (o : Loc) (s : State) : Ordinary s (rot op o s) :=
  (modifyLoc_ordinary o _ s).trans (State.putFlags_ordinary _ _ _ _ _)

theorem testBit_ordinary (b : Fin 8) (o : Loc) (s : State) : Ordinary s (testBit b o s) :=
  (s.afterLoc_readsOnly o).ordinary.trans (State.putFlags_ordinary _ _ _ _ _)

theorem cbEffect_ordinary (op2 : Byte) (s : State) : Ordinary s (cbEffect op2 s) := by
  unfold cbEffect
  split
  · exact rot_ordinary _ _ s
  · exact testBit_ordinary _ _ s
  · exact modifyLoc_ordinary _ _ s
  · exact modifyLoc_ordinary _ _ s

/-- What one instruction does. Every instruction answers a next state; only HALT, STOP, DI, EI, RETI and the unassigned
opcodes reach the control state. -/
inductive Effect (s : State) : Instr → State → Prop
  | ordinary (i : Instr) (t : State) : Ordinary s t → Effect s i t
  | halt : Effect s .halt (haltEffect s)
  | stop (x : Byte) : Effect s (.stop x) (stopEffect s)
  | di : Effect s .di { s with ime := false, eiPending := false }
  | ei : Effect s .ei { s with eiPending := true }
  | reti : Effect s .reti s.returnFromInterrupt
  | unassigned (u : Unassigned) : Effect s (.ofUnassigned u) (illegal u s)

theorem exec_effect (i : Instr) (s : State) : ∃ t, exec i s = .next t ∧ Effect s i t := by
  have ord : ∀ {i : Instr} {t : State}, exec i s = .next t → Ordinary s t → ∃ t, exec i s = .next t ∧ Effect s i t :=
    fun h1 h2 => ⟨_, h1, .ordinary _ _ h2⟩
  refine Instr.by_family
    (P := fun i => ∃ t, exec i s = .next t ∧ Effect s i t)
    (fun dst src => ord (exec_ofLdRegReg dst src s) (s.setReg_ordinary _ _))
    (fun r n => ord (exec_ofLdRegN r n s) (s.setReg_ordinary _ _))
    (fun r => ord (exec_ofLdRegAtHl r s) (ldFromMem_ordinary _ _ s))
    (fun r => ord (exec_ofLdAtHlReg r s) (s.memWrite_ordinary _ _))
    (fun op src => ord (exec_ofAlu op src s) (alu_ordinary op src s))
    (fun o => ord (exec_ofInc o s) (inc8_ordinary o s))
    (fun o => ord (exec_ofDec o s) (dec8_ordinary o s))
    (fun p nn => ord (exec_ofLdPairNn p nn s) (s.setPair_ordinary _ _))
    (fun p => ord (exec_ofAddHl p s) ((s.setHl_ordinary _).trans (State.setFlags_ordinary _ _)))
    (fun p => ord (exec_ofIncPair p s) (s.setPair_ordinary _ _))
    (fun p => ord (exec_ofDecPair p s) (s.setPair_ordinary _ _))
    (fun p => ord (exec_ofPush p s) (s.push16_ordinary _))
    (fun p => ord (exec_ofPop p s) (pop_ordinary p s))
    (fun cc nn => ord (exec_ofJp cc nn s) (ifCond_ordinary _ _ _ (s.setPc_ordinary _)))
    (fun cc e => ord (exec_ofJr cc e s) (ifCond_ordinary _ _ _ (s.setPc_ordinary _)))
    (fun cc nn => ord (exec_ofCall cc nn s) (ifCond_ordinary _ _ _ (call_ordinary nn s)))
    (fun cc => ord (exec_ofRet cc s) (ifCond_ordinary _ _ _ (ret_ordinary s)))
    (fun y => ord (exec_ofRst y s) (call_ordinary _ s))
    (fun u => ⟨_, exec_ofUnassigned u s, .unassigned u⟩)
    (fun op o => ord (exec_ofRot op o s) (rot_ordinary op o s))
    (fun b o => ord (exec_ofBit b o s) (testBit_ordinary b o s))
    (fun b o => ord (exec_ofRes b o s) (modifyLoc_ordinary o _ s))
    (fun b o => ord (exec_ofSet b o s) (modifyLoc_ordinary o _ s))
    (hNop := ord rfl (.refl s))
    (hLdAtBcA := ord rfl (s.memWrite_ordinary _ _))
    (hRlca := ord rfl (rotA_ordinary _ s))
    (hLdAtNnSp := fun nn => ord rfl ((s.memWrite_ordinary _ _).trans (State.memWrite_ordinary _ _ _)))
    (hLdAAtBc := ord rfl (ldFromMem_ordinary _ _ s))
    (hRrca := ord rfl (rotA_ordinary _ s))
    (hStop := fun x => ⟨_, rfl, .stop x⟩)
    (hLdAtDeA := ord rfl (s.memWrite_ordinary _ _))
    (hRla := ord rfl (rotA_ordinary _ s))
    (hJrE := fun e => ord rfl (s.setPc_ordinary _))
    (hLdAAtDe := ord rfl (ldFromMem_ordinary _ _ s))
    (hRra := ord rfl (rotA_ordinary _ s))
    (hLdAtHlIncA := ord rfl ((s.memWrite_ordinary _ _).trans (State.setHl_ordinary _ _)))
    (hDaa := ord rfl ((s.setA_ordinary _).trans (State.setFlags_ordinary _ _)))
    (hLdAAtHlInc := ord rfl ((ldFromMem_ordinary _ _ s).trans (State.setHl_ordinary _ _)))
    (hCpl := ord rfl ((s.setA_ordinary _).trans (State.putFlags_ordinary _ _ _ _ _)))
    (hLdAtHlDecA := ord rfl ((s.memWrite_ordinary _ _).trans (State.setHl_ordinary _ _)))
    (hLdAtHlN := fun n => ord rfl (s.memWrite_ordinary _ _))
    (hScf := ord rfl (s.putFlags_ordinary _ _ _ _))
    (hLdAAtHlDec := ord rfl ((ldFromMem_ordinary _ _ s).trans (State.setHl_ordinary _ _)))
    (hCcf := ord rfl (s.putFlags_ordinary _ _ _ _))
    (hHalt := ⟨_, rfl, .halt⟩)
    (hJpNn := fun nn => ord rfl (s.setPc_ordinary _))
    (hRet := ord rfl (ret_ordinary s))
    (hPrefixCb := fun op2 => ord rfl (cbEffect_ordinary op2 s))
    (hCallNn := fun nn => ord rfl (call_ordinary nn s))
    (hReti := ⟨_, rfl, .reti⟩)
    (hLdhAtNA := fun n => ord rfl (s.memWrite_ordinary _ _))
    (hLdhAtCA := ord rfl (s.memWrite_ordinary _ _))
    (hAddSpE := fun e => ord rfl ((s.setSp_ordinary _).trans (State.setFlags_ordinary _ _)))
    (hJpHl := ord rfl (s.setPc_ordinary _))
    (hLdAtNnA := fun nn => ord rfl (s.memWrite_ordinary _ _))
    (hLdhAAtN := fun n => ord rfl (ldFromMem_ordinary _ _ s))
    (hLdhAAtC := ord rfl (ldFromMem_ordinary _ _ s))
    (hDi := ⟨_, rfl, .di⟩)
    (hLdHlSpPlusE := fun e => ord rfl ((s.setHl_ordinary _).trans (State.setFlags_ordinary _ _)))
    (hLdSpHl := ord rfl (s.setSp_ordinary _))
    (hLdAAtNn := fun nn => ord rfl (ldFromMem_ordinary _ _ s))
    (hEi := ⟨_, rfl, .ei⟩)
    i

end Sys2Proof.Machine
end

