-- ==== Sys2Proof/Laws/Fetch.lean ====
section
/-! SUPPORT. The fetch: which fields it may change, that the decoder never rejects what it fetches, and what it fetches from known bytes. -/
namespace Sys2Proof.Machine

/-- `t` is `s` but for PC, the halt-bug flag, the opcode's address and the count of external reads. -/
def FetchOnly (s t : State) : Prop :=
  ∃ n pc hb oa, t = { s with pc := pc, haltBug := hb, opAddr := oa, bus := { s.bus with reads := n } }

theorem FetchOnly.trans {s t u : State} (h1 : FetchOnly s t) (h2 : FetchOnly t u) : FetchOnly s u := by
  obtain ⟨n, p, b, o, rfl⟩ := h1
  obtain ⟨n', p', b', o', rfl⟩ := h2
  exact ⟨n', p', b', o', rfl⟩

theorem ReadsOnly.fetchOnly {s t : State} (h : ReadsOnly s t) : FetchOnly s t := by
  obtain ⟨n, rfl⟩ := h
  exact ⟨n, s.pc, s.haltBug, s.opAddr, rfl⟩

theorem State.setPc_fetchOnly (v : Word) (s : State) : FetchOnly s { s with pc := v } :=
  ⟨s.bus.reads, v, s.haltBug, s.opAddr, rfl⟩

theorem State.fetch8_fetchOnly (s : State) : FetchOnly s s.fetch8.2 := by
  obtain ⟨n, h⟩ := s.afterRead_readsOnly s.pc
  exact ⟨n, s.pc + 1, s.haltBug, s.opAddr, by simp only [State.fetch8, h]⟩

theorem State.fetchOpcode_fetchOnly (s : State) : FetchOnly s s.fetchOpcode.2 := by
  obtain ⟨n, h⟩ := s.afterRead_readsOnly s.pc
  simp only [State.fetchOpcode, h]
  split
  · exact ⟨n, s.pc, false, s.pc, rfl⟩
  · exact ⟨n, s.pc + 1, s.haltBug, s.pc, rfl⟩

theorem State.fetchBytes_fetchOnly (n : Nat) (s : State) : FetchOnly s (s.fetchBytes n).2 := by
  induction n generalizing s with
  | zero => exact ⟨s.bus.reads, s.pc, s.haltBug, s.opAddr, rfl⟩
  | succ k ih => exact s.fetch8_fetchOnly.trans (ih s.fetch8.2)

theorem State.fetchInstr_fetchOnly (s : State) : FetchOnly s s.fetchInstr.2 :=
  s.fetchOpcode_fetchOnly.trans (State.fetchBytes_fetchOnly _ _)

theorem State.fetchBytes_haltBug (n : Nat) (s : State) : (s.fetchBytes n).2.haltBug = s.haltBug := by
  induction n generalizing s with
  | zero => rfl
  | succ k ih =>
    have : s.fetch8.2.haltBug = s.haltBug := by simp [State.fetch8]
    exact (ih s.fetch8.2).trans this

theorem State.fetchBytes_opAddr (n : Nat) (s : State) : (s.fetchBytes n).2.opAddr = s.opAddr := by
  induction n generalizing s with
  | zero => rfl
  | succ k ih =>
    have : s.fetch8.2.opAddr = s.opAddr := by simp [State.fetch8]
    exact (ih s.fetch8.2).trans this

/-- A fetch always leaves the halt-bug flag clear. -/
theorem State.fetchInstr_haltBug (s : State) : s.fetchInstr.2.haltBug = false := by
  have h : s.fetchOpcode.2.haltBug = false := by
    simp only [State.fetchOpcode]
    split <;> simp_all
  exact (State.fetchBytes_haltBug _ _).trans h

/-- A fetch remembers where the opcode was read from. -/
theorem State.fetchInstr_opAddr (s : State) : s.fetchInstr.2.opAddr = s.pc := by
  have h : s.fetchOpcode.2.opAddr = s.pc := by
    simp only [State.fetchOpcode]
    split <;> rfl
  exact (State.fetchBytes_opAddr _ _).trans h

theorem State.fetchBytes_length (n : Nat) (s : State) : (s.fetchBytes n).1.length = n := by
  induction n generalizing s with
  | zero => rfl
  | succ k ih => simp [State.fetchBytes, ih]

theorem State.fetchInstr_bytes (s : State) :
    ∃ vs, s.fetchInstr.1 = s.readByte s.pc :: vs ∧ vs.length = operandCount (s.readByte s.pc) :=
  ⟨_, rfl, State.fetchBytes_length _ _⟩

theorem operandCount_le (op : Byte) : operandCount op ≤ 2 := by
  unfold operandCount
  split
  · omega
  · split <;> omega

/-- The decoder reads an instruction from any bytes that are as many as the first one asks for. -/
theorem decode_of_length (op : Byte) (vs : List Byte) (h : vs.length = operandCount op) :
    ∃ b1 b2, decode (op :: vs) = .instr (decodeOp op b1 b2) [] ∧ (vs = [] ∨ vs = [b1] ∨ vs = [b1, b2]) := by
  have h2 := operandCount_le op
  rw [← h] at h2
  match vs, h with
  | [], h => exact ⟨0, 0, by simp [decode, ← h], .inl rfl⟩
  | [b1], h => exact ⟨b1, 0, by simp [decode, ← h], .inr (.inl rfl)⟩
  | [b1, b2], h => exact ⟨b1, b2, by simp [decode, ← h], .inr (.inr rfl)⟩
  | _ :: _ :: _ :: _, h => simp at h2

theorem State.decode_fetchInstr (s : State) :
    ∃ b1 b2, decode s.fetchInstr.1 = .instr (decodeOp (s.readByte s.pc) b1 b2) [] := by
  obtain ⟨vs, h1, h2⟩ := s.fetchInstr_bytes
  obtain ⟨b1, b2, h3, _⟩ := decode_of_length _ vs h2
  exact ⟨b1, b2, by rw [h1]; exact h3⟩

/-! ## Fetching known bytes -/

/-- Whether a Processor read reaches an external unit. -/
def State.readsExternal (s : State) (x : Word) : Prop :=
  s.busLocked x = false ∧ s.coreReg x = none ∧ s.busKind x = .external

theorem State.afterRead_eq_self (s : State) (x : Word) (h : ¬ s.readsExternal x) : s.afterRead x = s := by
  unfold State.readsExternal at h
  unfold State.afterRead
  split
  · rfl
  · unfold State.afterCoreRead
    split
    · rfl
    · unfold State.afterBusRead
      split
      · simp_all
      · rfl

theorem State.afterRead_external (s : State) (x : Word) (h : s.readsExternal x) :
    s.afterRead x = { s with bus := { s.bus with reads := s.bus.reads + 1 } } := by
  obtain ⟨h1, h2, h3⟩ := h
  simp [State.afterRead, h1, State.afterCoreRead, h2, State.afterBusRead, h3]

/-- The registers that a fetch moves play no part in a read. -/
def State.withFetch (s : State) (pc : Word) (hb : Bool) (oa : Word) : State :=
  { s with pc := pc, haltBug := hb, opAddr := oa }

theorem State.afterRead_withFetch (s : State) (x pc : Word) (hb : Bool) (oa : Word) :
    (s.withFetch pc hb oa).afterRead x = (s.afterRead x).withFetch pc hb oa := by
  by_cases h : s.readsExternal x
  · rw [s.afterRead_external x h, State.afterRead_external (s.withFetch pc hb oa) x h]; rfl
  · rw [s.afterRead_eq_self x h, State.afterRead_eq_self (s.withFetch pc hb oa) x h]

theorem State.afterReads_withFetch (n : Nat) (s : State) (x pc : Word) (hb : Bool) (oa : Word) :
    (s.withFetch pc hb oa).afterReads x n = (s.afterReads x n).withFetch pc hb oa := by
  induction n generalizing s x with
  | zero => rfl
  | succ k ih => simp only [State.afterReads, s.afterRead_withFetch, ih]

theorem State.bytesAt_withFetch (bytes : List Byte) (s : State) (x pc : Word) (hb : Bool) (oa : Word) :
    (s.withFetch pc hb oa).BytesAt x bytes ↔ s.BytesAt x bytes := by
  induction bytes generalizing s x with
  | nil => exact Iff.rfl
  | cons v rest ih =>
    simp only [State.BytesAt, s.afterRead_withFetch, ih]
    exact Iff.rfl

theorem State.afterReads_readsOnly (n : Nat) (s : State) (x : Word) : ReadsOnly s (s.afterReads x n) := by
  induction n generalizing s x with
  | zero => exact .refl
  | succ k ih => exact (s.afterRead_readsOnly x).trans (ih _ _)

/-- Fetching operand bytes that stand at PC. -/
theorem State.fetchBytes_of_bytesAt (bytes : List Byte) (s : State) (h : s.BytesAt s.pc bytes) :
    s.fetchBytes bytes.length =
      (bytes, (s.afterReads s.pc bytes.length).withFetch (s.pc + BitVec.ofNat 16 bytes.length) s.haltBug s.opAddr) := by
  induction bytes generalizing s with
  | nil => simp [State.fetchBytes, State.afterReads, State.withFetch]
  | cons v rest ih =>
    obtain ⟨h1, h2⟩ := h
    have e : s.fetch8 = (v, (s.afterRead s.pc).withFetch (s.pc + 1) s.haltBug s.opAddr) := by
      simp only [State.fetch8, h1]
      congr 1
      simp [State.withFetch]
    have ih' := ih ((s.afterRead s.pc).withFetch (s.pc + 1) s.haltBug s.opAddr)
      ((State.bytesAt_withFetch _ _ _ _ _ _).mpr h2)
    simp only [State.fetchBytes, List.length_cons, e, ih', State.afterReads, State.afterReads_withFetch]
    congr 1
    simp only [State.withFetch]
    congr 1
    rw [BitVec.add_assoc, BitVec.ofNat_add, BitVec.add_comm (BitVec.ofNat 16 rest.length)]
    rfl

end Sys2Proof.Machine
end

