-- ==== Sys2Proof/Laws/Ticks.lean ====
section
/-! SUPPORT. Ticks and host actions: which fields they may change, and that they keep the invariant. -/
namespace Sys2Proof.Machine

/-! ## The timer's tick -/

theorem State.requestInterrupt_two (s : State) : s.requestInterrupt 2 = { s with ifl := s.ifl ||| 4 } := rfl

theorem State.timerTick_eq (s : State) :
    s.timerTick = { s with timer := s.timer.tick.1, ifl := if s.timer.tick.2 then s.ifl ||| 4 else s.ifl } := by
  unfold State.timerTick
  split
  rename_i t irq h
  rw [h]
  split <;> simp_all [State.requestInterrupt_two]

theorem State.timerTick_writesOnly (s : State) : WritesOnly s s.timerTick := by
  rw [s.timerTick_eq]
  exact ⟨rfl, rfl⟩

theorem State.timerTick_peripheralInv (s : State) (h : s.PeripheralInv) : s.timerTick.PeripheralInv := by
  rw [s.timerTick_eq]
  exact ⟨s.timer.tick_inv h.1, h.2.1, h.2.2.1, h.2.2.2⟩

/-! ## The OAM-DMA engine's tick -/

theorem State.oamCopy_writesOnly (i : Nat) (s : State) : WritesOnly s (s.oamCopy i) :=
  (State.afterCoreRead_readsOnly _ _).writesOnly.trans (State.oamWrite_writesOnly _ _ _)

/-- A copy changes nothing but the bus. -/
theorem State.oamCopy_peripherals (i : Nat) (s : State) : PeripheralsKept s (s.oamCopy i) := by
  simp only [State.oamCopy, State.oamWrite]
  split
  · obtain ⟨h1, h2, h3, h4, h5⟩ := State.busWrite_peripherals (0xFE00 + BitVec.ofNat 16 i)
      (s.coreByte (oamSource s.dma.source i)) (s.afterCoreRead (oamSource s.dma.source i))
    exact ⟨h1.trans (by simp), h2.trans (by simp), h3.trans (by simp), h4.trans (by simp), h5.trans (by simp)⟩
  · exact ⟨by simp, by simp, by simp, by simp, by simp⟩

theorem State.oamCopy_peripheralInv (i : Nat) (s : State) (h : s.PeripheralInv) : (s.oamCopy i).PeripheralInv :=
  State.oamWrite_peripheralInv _ _ _ ((State.afterCoreRead_readsOnly _ _).peripheralInv h)

theorem State.dmaTick_writesOnly (s : State) : WritesOnly s s.dmaTick := by
  unfold State.dmaTick
  split
  · exact .refl
  · split
    · exact ⟨rfl, rfl⟩
    · split
      · exact (s.oamCopy_writesOnly _).trans ⟨rfl, rfl⟩
      · exact ⟨rfl, rfl⟩

/-- The engine's own counters after a tick, whatever the memory (60_exceptions.md R252). -/
def OamDma.tick (x : OamDma) : OamDma :=
  if x.active = false then x
  else if x.startup > 0 then { x with startup := x.startup - 1, restarted := x.restarted && x.startup - 1 != 0 }
  else if x.sub + 1 = 4 then { x with sub := 0, count := x.count + 1, active := x.count + 1 != 160 }
  else { x with sub := x.sub + 1 }

theorem State.dmaTick_dma (s : State) : s.dmaTick.dma = s.dma.tick := by
  unfold State.dmaTick OamDma.tick
  split
  · rfl
  · split
    · rfl
    · split
      · simp only [(s.oamCopy_peripherals s.dma.count).2.2.2.1]
      · rfl

theorem OamDma.tick_inv (x : OamDma) (h : x.Inv) : x.tick.Inv := by
  obtain ⟨h1, h2, h3, h4, h5, h6, h7⟩ := h
  unfold OamDma.tick
  split
  · exact ⟨h1, h2, h3, h4, h5, h6, h7⟩
  · rename_i ha
    have ha' : x.active = true := by simpa using ha
    split
    · rename_i hs
      obtain ⟨_, hc, hb⟩ := h6 hs
      refine ⟨by simp; omega, h2, h3, h4, h5, fun _ => ⟨ha', hc, hb⟩, ?_⟩
      simp only [Bool.and_eq_true, bne_iff_ne]
      omega
    · rename_i hs
      have h0 : x.startup = 0 := by omega
      have hr : x.restarted = false := by
        cases hrr : x.restarted
        · rfl
        · exact absurd (h7 hrr) hs
      have hcl := h5 ha'
      split
      · refine ⟨by simp [h0], by simp, by simp; omega, h4, ?_, by simp [h0], by simp [hr]⟩
        simp only [bne_iff_ne]
        omega
      · refine ⟨by simp [h0], by simp; omega, h3, h4, h5, by simp [h0], by simp [hr]⟩

theorem State.dmaTick_rest (s : State) : s.dmaTick.timer = s.timer ∧ s.dmaTick.hdma = s.hdma ∧ s.dmaTick.ie = s.ie ∧
    s.dmaTick.ifl = s.ifl := by
  unfold State.dmaTick
  split
  · exact ⟨rfl, rfl, rfl, rfl⟩
  · split
    · exact ⟨rfl, rfl, rfl, rfl⟩
    · split
      · have h := s.oamCopy_peripherals s.dma.count
        exact ⟨h.2.2.1, h.2.2.2.2, h.1, h.2.1⟩
      · exact ⟨rfl, rfl, rfl, rfl⟩

theorem State.dmaTick_mem_wf (s : State) (h : s.bus.mem.wf = true) : s.dmaTick.bus.mem.wf = true := by
  unfold State.dmaTick
  split
  · exact h
  · split
    · exact h
    · split
      · simp only [State.oamCopy, State.oamWrite]
        split
        · unfold State.busWrite
          split
          · exact Memory.write_wf _ _ _ (by simpa using h)
          · simpa using h
        · simpa using h
      · exact h

theorem State.dmaTick_peripheralInv (s : State) (h : s.PeripheralInv) : s.dmaTick.PeripheralInv := by
  obtain ⟨h1, h2, h3, h4⟩ := h
  refine ⟨?_, ?_, ?_, s.dmaTick_mem_wf h4⟩
  · rw [s.dmaTick_rest.1]; exact h1
  · rw [s.dmaTick_dma]; exact s.dma.tick_inv h2
  · rw [s.dmaTick_rest.2.1]; exact h3

/-! ## T-cycles -/

theorem State.tCycle_writesOnly (s : State) : WritesOnly s s.tCycle := by
  unfold State.tCycle
  split
  · exact .refl
  · exact s.timerTick_writesOnly.trans (State.dmaTick_writesOnly _)

theorem State.tCycle_peripheralInv (s : State) (h : s.PeripheralInv) : s.tCycle.PeripheralInv := by
  unfold State.tCycle
  split
  · exact h
  · exact State.dmaTick_peripheralInv _ (s.timerTick_peripheralInv h)

theorem State.tCycles_writesOnly (n : Nat) (s : State) : WritesOnly s (s.tCycles n) := by
  induction n generalizing s with
  | zero => exact .refl
  | succ k ih => exact s.tCycle_writesOnly.trans (ih _)

theorem State.tCycles_peripheralInv (n : Nat) (s : State) (h : s.PeripheralInv) : (s.tCycles n).PeripheralInv := by
  induction n generalizing s with
  | zero => exact h
  | succ k ih => exact ih _ (s.tCycle_peripheralInv h)

theorem State.tCycles_add (m n : Nat) (s : State) : s.tCycles (m + n) = (s.tCycles m).tCycles n := by
  induction m generalizing s with
  | zero => simp [State.tCycles]
  | succ k ih => rw [Nat.succ_add]; exact ih _

theorem State.tCycle_faulted (s : State) (h : s.fault.isSome = true) : s.tCycle = s := by simp [State.tCycle, h]

theorem State.tCycles_faulted (n : Nat) (s : State) (h : s.fault.isSome = true) : s.tCycles n = s := by
  induction n with
  | zero => rfl
  | succ k ih => simp only [State.tCycles, s.tCycle_faulted h, ih]

/-! ## Host actions -/

/-- What a host action leaves: every register of the Processor and its control state, but for a recorded fault. -/
def HostOnly (s t : State) : Prop :=
  t.a = s.a ∧ t.f = s.f ∧ t.b = s.b ∧ t.c = s.c ∧ t.d = s.d ∧ t.e = s.e ∧ t.h = s.h ∧ t.l = s.l ∧ t.sp = s.sp ∧
  t.pc = s.pc ∧ t.runState = s.runState ∧ t.ime = s.ime ∧ t.eiPending = s.eiPending ∧ t.haltBug = s.haltBug ∧
  t.dispatchStage = s.dispatchStage ∧ t.dispatchBit = s.dispatchBit ∧ t.ie = s.ie ∧ t.timer = s.timer ∧ t.dma = s.dma ∧
  t.opAddr = s.opAddr ∧ t.cfg = s.cfg

theorem HostOnly.refl (s : State) : HostOnly s s := by simp [HostOnly]

theorem HostOnly.trans {s t u : State} (h1 : HostOnly s t) (h2 : HostOnly t u) : HostOnly s u := by
  unfold HostOnly at *
  simp_all

theorem State.hblankBlock_hostOnly (s : State) : HostOnly s s.hblankBlock := by
  unfold State.hblankBlock
  split
  · exact .refl s
  · split
    · have h := s.hdmaStep_writesOnly
      have p := s.hdmaCopy_timer_dma 16
      exact ⟨h.a, h.f, h.b, h.c, h.d, h.e, h.h, h.l, h.sp, h.pc, h.runState, h.ime, h.eiPending, h.haltBug,
        h.dispatchStage, h.dispatchBit, p.2.2.1, p.1, p.2.1, h.opAddr, h.cfg⟩
    · exact .refl s

theorem State.hostAct_hostOnly (act : HostAction) (s : State) : HostOnly s (s.hostAct act) := by
  unfold State.hostAct
  split
  · exact .refl s
  · cases act with
    | requestInterrupt k => simp only [State.requestInterrupt]; split <;> simp [HostOnly]
    | hblankBlock => exact s.hblankBlock_hostOnly
    | setBusByte addr v => simp [HostOnly]
    | remapBus map => simp [HostOnly]

theorem State.hblankBlock_peripheralInv (s : State) (h : s.PeripheralInv) : s.hblankBlock.PeripheralInv := by
  unfold State.hblankBlock
  split
  · exact h
  · split
    · rename_i hc
      simp only [Bool.and_eq_true, beq_iff_eq] at hc
      obtain ⟨h1, h2, ⟨a1, a2, a3, a4, a5⟩, h4⟩ := h
      have r := s.hdmaStep_rest ⟨h1, h2, h4⟩
      have p := s.hdmaStep_parts
      refine ⟨r.1, r.2.1, ?_, r.2.2⟩
      have hr := a4 hc.1
      simp only [Hdma.Inv, p]
      refine ⟨hdma_src_advances _ a1, hdma_dst_advances _, by omega, ?_, ?_⟩
      · simp only [bne_iff_ne]; intro hn; exact ⟨hc.2, by omega⟩
      · intro hst; exact absurd (a5 hst) (by simp [hc.1])
    · exact h

theorem State.hostAct_peripheralInv (act : HostAction) (s : State) (h : s.PeripheralInv) :
    (s.hostAct act).PeripheralInv := by
  unfold State.hostAct
  split
  · exact h
  · cases act with
    | requestInterrupt k => simp only [State.requestInterrupt]; split <;> exact h
    | hblankBlock => exact s.hblankBlock_peripheralInv h
    | setBusByte addr v => exact ⟨h.1, h.2.1, h.2.2.1, Memory.write_wf _ addr v h.2.2.2⟩
    | remapBus map => exact h

theorem State.hostActs_hostOnly (acts : List HostAction) (s : State) : HostOnly s (acts.foldl State.hostAct s) := by
  induction acts generalizing s with
  | nil => exact .refl s
  | cons act rest ih => exact (s.hostAct_hostOnly act).trans (ih _)

theorem State.hostActs_peripheralInv (acts : List HostAction) (s : State) (h : s.PeripheralInv) :
    (acts.foldl State.hostAct s).PeripheralInv := by
  induction acts generalizing s with
  | nil => exact h
  | cons act rest ih => exact ih _ (s.hostAct_peripheralInv act h)

theorem State.hostPhase_hostOnly (s : State) : HostOnly s s.hostPhase := by
  unfold State.hostPhase
  split
  · exact .refl s
  · split
    · exact .refl s
    · exact HostOnly.trans (t := { s with hostScript := _ }) (by simp [HostOnly]) (State.hostActs_hostOnly _ _)

theorem State.hostPhase_peripheralInv (s : State) (h : s.PeripheralInv) : s.hostPhase.PeripheralInv := by
  unfold State.hostPhase
  split
  · exact h
  · split
    · exact h
    · exact State.hostActs_peripheralInv _ _ h

theorem State.hostPhase_idle (s : State) (h : s.hostScript = []) : s.hostPhase = s := by
  simp [State.hostPhase, h]

theorem State.hostPhase_faulted (s : State) (h : s.fault.isSome = true) : s.hostPhase = s := by
  simp [State.hostPhase, h]

/-! ## The control part of the invariant depends on the control state only -/

theorem State.ControlInv.of_hostOnly {s t : State} (h : HostOnly s t) (hs : s.ControlInv) : t.ControlInv := by
  unfold HostOnly at h
  unfold State.ControlInv at *
  simp_all

theorem State.ControlInv.of_writesOnly {s t : State} (h : WritesOnly s t) (hs : s.ControlInv) : t.ControlInv := by
  unfold State.ControlInv at *
  rw [h.f, h.dispatchBit, h.dispatchStage, h.runState, h.ime, h.haltBug]
  exact hs

/-! ## The timer under the machine's T-cycles -/

/-- A T-cycle ticks the timer, and its request sets bit 2 of IF (60_exceptions.md R242, R275). -/
theorem State.tCycle_timer (s : State) (h : s.fault = none) : s.tCycle.timer = s.timer.tick.1 ∧
    s.tCycle.ifl = (if s.timer.tick.2 then s.ifl ||| 4 else s.ifl) := by
  unfold State.tCycle
  rw [if_neg (by simp [h]), s.timerTick_eq]
  obtain ⟨a, -, -, d⟩ :=
    State.dmaTick_rest { s with timer := s.timer.tick.1, ifl := if s.timer.tick.2 then s.ifl ||| 4 else s.ifl }
  exact ⟨a, d⟩

theorem State.tCycles_succ (n : Nat) (s : State) : s.tCycles (n + 1) = (s.tCycles n).tCycle := by
  rw [State.tCycles_add]
  rfl

/-- The timer after `n` T-cycles (60_exceptions.md R248). -/
theorem State.tCycles_timer (n : Nat) (s : State) (h : s.fault = none) : (s.tCycles n).timer = s.timer.after n := by
  have : (s.tCycles n).timer = s.timer.after n ∧ (s.tCycles n).fault = none := by
    induction n with
    | zero => exact ⟨rfl, h⟩
    | succ n ih =>
      rw [State.tCycles_succ, ((s.tCycles n).tCycle_timer ih.2).1, ih.1, (s.tCycles n).tCycle_writesOnly.fault]
      exact ⟨rfl, ih.2⟩
  exact this.1

end Sys2Proof.Machine
end

