-- ==== Sys2Proof/Laws/Engines.lean ====
section
/-! SUPPORT. The DMA engines over several ticks and blocks: the OAM-DMA engine's counters, and what HDMA blocks copy and leave. -/
namespace Sys2Proof.Machine

/-! ## OAM-DMA -/

/-- The OAM-DMA engine `n` T-cycles after the write of `v` that started it; `l` is whether it was locked then
(60_exceptions.md R251, R252). -/
def OamDma.afterStart (v : Byte) (l : Bool) (n : Nat) : OamDma :=
  if n < 8 then
    { active := true, source := v, count := 0, startup := 8 - n, sub := 0, restarted := l, reg := v }
  else if n < 648 then
    { active := true, source := v, count := (n - 8) / 4, startup := 0, sub := (n - 8) % 4, restarted := false, reg := v }
  else { active := false, source := v, count := 160, startup := 0, sub := 0, restarted := false, reg := v }

theorem OamDma.afterStart_tick (v : Byte) (l : Bool) (n : Nat) : (OamDma.afterStart v l n).tick = OamDma.afterStart v l (n + 1) := by
  unfold OamDma.afterStart
  by_cases h1 : n < 8
  · rw [if_pos h1]
    unfold OamDma.tick
    rw [if_neg (by simp), if_pos (by simp; omega)]
    by_cases h2 : n + 1 < 8
    · rw [if_pos h2]
      have : (8 - n - 1 != 0) = true := by simp; omega
      simp [this]
      omega
    · rw [if_neg h2, if_pos (by omega)]
      have : n = 7 := by omega
      subst this
      simp
  · rw [if_neg h1, if_neg (show ¬ n + 1 < 8 by omega)]
    by_cases h2 : n < 648
    · rw [if_pos h2]
      unfold OamDma.tick
      rw [if_neg (by simp), if_neg (by simp)]
      by_cases h3 : (n - 8) % 4 + 1 = 4
      · rw [if_pos h3]
        by_cases h4 : n + 1 < 648
        · rw [if_pos h4]
          have : ((n - 8) / 4 + 1 != 160) = true := by simp; omega
          simp only [this]
          congr 1 <;> omega
        · rw [if_neg h4]
          have : n = 647 := by omega
          subst this
          rfl
      · rw [if_neg h3, if_pos (by omega)]
        congr 1 <;> simp only <;> omega
    · rw [if_neg h2, if_neg (show ¬ n + 1 < 648 by omega)]
      rfl

theorem State.tCycle_dma (s : State) (h : s.fault = none) : s.tCycle.dma = s.dma.tick ∧ s.tCycle.fault = none := by
  refine ⟨?_, by rw [s.tCycle_writesOnly.fault, h]⟩
  unfold State.tCycle
  rw [if_neg (by simp [h]), State.dmaTick_dma, s.timerTick_eq]

/-- The engine over `n` T-cycles. -/
theorem State.tCycles_dma (s : State) (v : Byte) (l : Bool) (n : Nat) (h : s.fault = none)
    (hd : s.dma = OamDma.afterStart v l 0) :
    (s.tCycles n).dma = OamDma.afterStart v l n ∧ (s.tCycles n).fault = none := by
  induction n with
  | zero => exact ⟨hd, h⟩
  | succ n ih =>
    rw [State.tCycles_succ]
    obtain ⟨a, b⟩ := (s.tCycles n).tCycle_dma ih.2
    rw [a, ih.1, OamDma.afterStart_tick]
    exact ⟨rfl, b⟩

/-- A write to 0xFF46 starts the engine (60_exceptions.md R250, R251). -/
theorem State.memWrite_dma (s : State) (v : Byte) :
    s.memWrite 0xFF46 v = { s with dma := OamDma.afterStart v s.dma.locks 0 } := by
  rw [(s.coreReg_access (by decide) (show _ = some CoreReg.dma from rfl)).2.2]
  rfl

theorem oamSource_eq (v : Byte) (i : Nat) : oamSource v i = BitVec.ofNat 16 (v.toNat * 256 + i) := by
  apply BitVec.eq_of_toNat_eq
  have h : ∀ v : Byte, (v ++ (0 : Byte)).toNat = v.toNat * 256 := by decide
  rw [oamSource, BitVec.toNat_add, h v]
  simp

theorem oamAddr_toNat (i : Nat) (h : i < 160) : (0xFE00 + BitVec.ofNat 16 i : Word).toNat = 0xFE00 + i := by
  rw [BitVec.toNat_add, BitVec.toNat_ofNat]
  simp
  omega

/-- After `k` bytes of the OAM-DMA that started in `u`, a copy of `s` but for the engine: byte `i` is what the unlocked read gave
in its own T-cycle, and no other byte has changed (60_exceptions.md R252, R255). -/
def OamCopied (s u : State) (v : Byte) (k : Nat) (t : State) : Prop :=
  (∀ i < k, s.busKind (0xFE00 + BitVec.ofNat 16 i) = .plain →
    t.bus.mem.read (0xFE00 + BitVec.ofNat 16 i : Word).toNat = (u.tCycles (11 + 4 * i)).timerTick.coreByte (oamSource v i)) ∧
  (∀ x : Word, (∀ i < k, x ≠ 0xFE00 + BitVec.ofNat 16 i) → t.bus.mem.read x.toNat = s.bus.mem.read x.toNat)

/-- The bus contents after one byte (60_exceptions.md R252). -/
theorem State.oamCopy_mem (j : Nat) (y : State) (h : j < 160) : (y.oamCopy j).bus.mem =
    if y.busKind (0xFE00 + BitVec.ofNat 16 j) = .plain then
      y.bus.mem.write (0xFE00 + BitVec.ofNat 16 j : Word).toNat (y.coreByte (oamSource y.dma.source j))
    else y.bus.mem := by
  have hbk := (y.afterCoreRead_readsOnly (oamSource y.dma.source j)).writesOnly.busKind
  unfold State.oamCopy State.oamWrite
  rw [if_pos (by rw [oamAddr_toNat j h]; omega)]
  unfold State.busWrite
  rw [hbk]
  cases y.busKind (0xFE00 + BitVec.ofNat 16 j) <;> simp

/-- How many bytes are copied `n` T-cycles after the write that started the transfer (60_exceptions.md R252). -/
def oamCopiedAt (n : Nat) : Nat := if n < 8 then 0 else min 160 ((n - 8) / 4)

/-- What the bus holds `n` T-cycles after the write of `v` to 0xFF46 (60_exceptions.md R252, R255). -/
theorem State.tCycles_oamCopied (s : State) (v : Byte) (n : Nat) (hf : s.fault = none) :
    let u := s.memWrite 0xFF46 v
    OamCopied s u v (oamCopiedAt n) (u.tCycles n) ∧ (u.tCycles n).ie = s.ie ∧ (u.tCycles n).hdma = s.hdma := by
  intro u
  have hu : u = { s with dma := OamDma.afterStart v s.dma.locks 0 } := s.memWrite_dma v
  clear_value u
  subst hu
  generalize hu : ({ s with dma := OamDma.afterStart v s.dma.locks 0 } : State) = u
  have hs : WritesOnly s u := by
    rw [← hu]
    exact ⟨rfl, rfl⟩
  induction n with
  | zero =>
    rw [← hu]
    exact ⟨⟨by simp [oamCopiedAt], fun _ _ => rfl⟩, rfl, rfl⟩
  | succ n ih =>
    obtain ⟨⟨c1, c2⟩, c3, c4⟩ := ih
    obtain ⟨d1, d2⟩ := u.tCycles_dma v s.dma.locks n (by rw [← hu]; exact hf) (by rw [← hu])
    have w := hs.trans (State.tCycles_writesOnly n u)
    have hxy : ∀ j, n = 11 + 4 * j → (u.tCycles (11 + 4 * j)).timerTick = (u.tCycles n).timerTick := fun j h => by rw [h]
    rw [State.tCycles_succ]
    generalize u.tCycles n = x at *
    have e : x.tCycle = x.timerTick.dmaTick := by
      unfold State.tCycle
      rw [if_neg (by simp [d2])]
    have r := x.timerTick.dmaTick_rest
    have tt : x.timerTick.bus = x.bus ∧ x.timerTick.hdma = x.hdma ∧ x.timerTick.ie = x.ie ∧ x.timerTick.dma = x.dma := by
      rw [x.timerTick_eq]
      exact ⟨rfl, rfl, rfl, rfl⟩
    rw [e]
    refine ⟨?_, by rw [r.2.2.1, tt.2.2.1, c3], by rw [r.2.1, tt.2.1, c4]⟩
    have hbk : x.timerTick.busKind = s.busKind := funext fun z => (w.trans x.timerTick_writesOnly).busKind z
    generalize x.timerTick = y at *
    obtain ⟨t1, -, -, t4⟩ := tt
    rw [← t1] at c1 c2
    rw [← t4] at d1
    unfold OamCopied oamCopiedAt State.dmaTick
    unfold oamCopiedAt at c1 c2
    rw [d1]
    by_cases a1 : n < 8
    · have : (if n + 1 < 8 then 0 else min 160 ((n + 1 - 8) / 4)) = 0 := by split <;> omega
      rw [this]
      rw [if_pos a1] at c2
      refine ⟨by simp, fun z hz => ?_⟩
      rw [← c2 z (by simp)]
      simp only [OamDma.afterStart, if_pos a1]
      rw [if_neg (by simp), if_pos (by simp; omega)]
    · rw [if_neg a1] at c1 c2
      rw [if_neg (by omega)]
      by_cases a2 : n < 648
      · simp only [OamDma.afterStart, if_neg a1, if_pos a2]
        rw [if_neg (by simp), if_neg (by simp)]
        rw [Nat.min_eq_right (by omega)] at c1 c2 ⊢
        by_cases a3 : (n - 8) % 4 + 1 = 4
        · rw [if_pos a3]
          have hy := hxy _ (show n = 11 + 4 * ((n - 8) / 4) by omega)
          rw [show (n + 1 - 8) / 4 = (n - 8) / 4 + 1 by omega]
          have hd : y.dma.source = v := by
            rw [d1]
            simp [OamDma.afterStart, a1, a2]
          have jl : (n - 8) / 4 < 160 := by omega
          generalize (n - 8) / 4 = j at *
          have hcp := State.oamCopy_mem j y jl
          rw [hd, hbk] at hcp
          simp only [hcp]
          by_cases hp : s.busKind (0xFE00 + BitVec.ofNat 16 j) = .plain
          · rw [if_pos hp]
            refine ⟨fun i hi hpi => ?_, fun z hz => ?_⟩
            · rw [Memory.read_write]
              split
              · rename_i heq
                rw [oamAddr_toNat i (by omega), oamAddr_toNat j jl] at heq
                rw [show i = j by omega, hy]
              · rename_i hne
                rw [oamAddr_toNat i (by omega), oamAddr_toNat j jl] at hne
                exact c1 i (by omega) hpi
            · rw [Memory.read_write_other _ _ _ _ (Word.toNat_ne (hz j (by omega)))]
              exact c2 z (fun i hi => hz i (by omega))
          · rw [if_neg hp]
            refine ⟨fun i hi hpi => ?_, fun z hz => c2 z (fun i hi => hz i (by omega))⟩
            have : i ≠ j := fun e => hp (e ▸ hpi)
            exact c1 i (by omega) hpi
        · rw [if_neg a3, show (n + 1 - 8) / 4 = (n - 8) / 4 by omega]
          exact ⟨c1, c2⟩
      · simp only [OamDma.afterStart, if_neg a1, if_neg a2]
        rw [if_pos (by simp), show min 160 ((n + 1 - 8) / 4) = min 160 ((n - 8) / 4) by omega]
        exact ⟨c1, c2⟩

/-! ## HDMA -/

theorem hdmaBlockCount_eq (v : Byte) : hdmaBlockCount v = v.toNat % 128 + 1 := by
  revert v
  decide

/-- A destination that is a multiple of 16 stays one, and the mask does nothing to it (60_exceptions.md R267). -/
theorem hdmaDst_advance (x : BitVec 13) (h : x.extractLsb' 0 4 = 0#4) :
    (x + 16) &&& 0x1FF0 = x + 16 ∧ (x + 16).extractLsb' 0 4 = 0#4 := by
  have h' := congrArg BitVec.toNat h
  simp at h'
  have key : ∀ y : BitVec 13, y.toNat % 16 = 0 → y &&& 0x1FF0 = y := by
    intro y hy
    have : y = (y.extractLsb' 4 9) ++ (0#4) := by
      apply BitVec.eq_of_toNat_eq
      rw [BitVec.toNat_append, BitVec.extractLsb'_toNat]
      have := y.isLt
      simp [Nat.shiftLeft_eq, Nat.shiftRight_eq_div_pow]
      omega
    rw [this]
    apply BitVec.eq_of_getLsbD_eq
    intro i hi
    rw [BitVec.getLsbD_and, BitVec.getLsbD_append]
    by_cases h4 : i < 4
    · simp [h4]
    · have hm : ∀ i < 13, 4 ≤ i → (0x1FF0 : BitVec 13).getLsbD i = true := by decide
      rw [hm i hi (by omega)]
      simp
  have e : (x + 16).toNat % 16 = 0 := by
    rw [BitVec.toNat_add]
    simp
    omega
  refine ⟨key _ e, ?_⟩
  apply BitVec.eq_of_toNat_eq
  rw [BitVec.extractLsb'_toNat]
  simpa using e

/-- The registers of the HDMA engine after `n` blocks (60_exceptions.md R267). -/
theorem State.hdmaBlocks_hdma (n : Nat) (s : State) (h : s.hdma.dst.extractLsb' 0 4 = 0#4) : (s.hdmaBlocks n).hdma =
    { s.hdma with
      src := s.hdma.src + BitVec.ofNat 16 (16 * n)
      dst := s.hdma.dst + BitVec.ofNat 13 (16 * n)
      remaining := s.hdma.remaining - n } := by
  induction n generalizing s with
  | zero => simp [State.hdmaBlocks]
  | succ k ih =>
    obtain ⟨d1, d2⟩ := hdmaDst_advance _ h
    have e := s.hdmaStep_parts
    rw [d1] at e
    simp only [State.hdmaBlocks]
    rw [ih s.hdmaStep (by rw [e]; exact d2), e]
    simp only [Nat.mul_succ, BitVec.ofNat_add, Nat.sub_sub, Nat.add_comm 1 k]
    rw [BitVec.add_assoc, BitVec.add_assoc, BitVec.add_comm (BitVec.ofNat 16 (16 * k)),
      BitVec.add_comm (BitVec.ofNat 13 (16 * k))]
    rfl

/-- Blocks leave the other units alone. -/
theorem State.hdmaBlocks_others (n : Nat) (s : State) : (s.hdmaBlocks n).timer = s.timer ∧ (s.hdmaBlocks n).dma = s.dma ∧
    (s.hdmaBlocks n).ie = s.ie ∧ (s.hdmaBlocks n).ifl = s.ifl := by
  induction n generalizing s with
  | zero => exact ⟨rfl, rfl, rfl, rfl⟩
  | succ k ih =>
    have h := s.hdmaCopy_timer_dma 16
    obtain ⟨a, b, c, d⟩ := ih s.hdmaStep
    exact ⟨a.trans h.1, b.trans h.2.1, c.trans h.2.2.1, d.trans h.2.2.2⟩

/-- The VRAM address of the `j`-th byte of a transfer to `d`. -/
def vramAddr (d : BitVec 13) (j : Nat) : Word := BitVec.ofNat 16 (0x8000 + (d.toNat + j) % 8192)

theorem vramAddr_toNat (d : BitVec 13) (j : Nat) : (vramAddr d j).toNat = 0x8000 + (d.toNat + j) % 8192 := by
  have : (d.toNat + j) % 8192 < 8192 := Nat.mod_lt _ (by decide)
  unfold vramAddr
  rw [BitVec.toNat_ofNat]
  omega

theorem vramAddr_range (d : BitVec 13) (j : Nat) : 0x8000 ≤ (vramAddr d j).toNat ∧ (vramAddr d j).toNat < 0xA000 := by
  rw [vramAddr_toNat]
  have : (d.toNat + j) % 8192 < 8192 := Nat.mod_lt _ (by decide)
  omega

theorem vramAddr_coreReg (variant : Variant) (d : BitVec 13) (j : Nat) : coreRegAt variant (vramAddr d j) = none :=
  coreRegAt_low _ _ (by have := (vramAddr_range d j).2; omega)

theorem vramAddr_add (d : BitVec 13) (m j : Nat) : vramAddr (d + BitVec.ofNat 13 m) j = vramAddr d (m + j) := by
  apply BitVec.eq_of_toNat_eq
  rw [vramAddr_toNat, vramAddr_toNat, BitVec.toNat_add, BitVec.toNat_ofNat]
  omega

/-- The address a byte is copied to (60_exceptions.md R267). -/
theorem Hdma.dstAt_eq (x : Hdma) (i : Nat) : x.dstAt i = vramAddr x.dst i := by
  have or8000 : ∀ y : BitVec 13, (0x8000 ||| y.zeroExtend 16 : Word).toNat = 0x8000 + y.toNat := by
    intro y
    rw [BitVec.toNat_or]
    have := y.isLt
    have h := Nat.shiftLeft_add_eq_or_of_lt (show y.toNat < 2 ^ 15 by omega) 1
    simp at h ⊢
    rw [Nat.mod_eq_of_lt (show y.toNat < 65536 by omega)]
    omega
  apply BitVec.eq_of_toNat_eq
  rw [vramAddr_toNat, Hdma.dstAt, or8000, BitVec.toNat_add, BitVec.toNat_ofNat]
  simp

/-- A copy of `n` bytes changes no other byte. -/
theorem State.hdmaCopy_read_other (n : Nat) (s : State) (x : Word) (h : ∀ i < n, x ≠ vramAddr s.hdma.dst i) :
    (s.hdmaCopy n).bus.mem.read x.toNat = s.bus.mem.read x.toNat := by
  induction n with
  | zero => rfl
  | succ k ih =>
    simp only [State.hdmaCopy, Hdma.dstAt_eq, State.hdmaCopy_hdma]
    rw [← ih (fun i hi => h i (by omega))]
    unfold State.vramWrite
    split
    · rw [State.busWrite_read_other _ _ _ _ (h k (by omega))]
      simp
    · simp

end Sys2Proof.Machine
end

