-- ==== Sys2Proof/Laws/Hdma.lean ====
section
/-! SUPPORT. What an HDMA transfer copies, byte by byte and block by block, from every kind of source. -/
namespace Sys2Proof.Machine

theorem Hdma.status_toNat (x : Hdma) : x.status.toNat = (if x.active then 0 else 128) + (x.remaining + 127) % 128 := by
  have key : ∀ (b : Bool) (y : BitVec 7),
      ((if b = true then (0x00 : Byte) else 0x80) ||| y.zeroExtend 8).toNat = (if b then 0 else 128) + y.toNat := by decide
  have h7 := key x.active (BitVec.ofNat 7 ((x.remaining + 127) % 128))
  have hl : (x.remaining + 127) % 128 < 128 := Nat.mod_lt _ (by decide)
  rw [BitVec.toNat_ofNat, Nat.mod_eq_of_lt hl] at h7
  rw [← h7, Hdma.status]
  congr 2
  apply BitVec.eq_of_toNat_eq
  simp

theorem State.hdmaTo_range (s : State) (j : Nat) : 0x8000 ≤ (s.hdmaTo j).toNat ∧ (s.hdmaTo j).toNat < 0xA000 :=
  vramAddr_range s.hdma.dst j

/-- The at most 2048 bytes of a transfer go to different addresses. -/
theorem State.hdmaTo_ne (s : State) {i j : Nat} (hi : i < 8192) (hj : j < 8192) (h : i ≠ j) : s.hdmaTo i ≠ s.hdmaTo j := by
  intro e
  have h0 := congrArg BitVec.toNat e
  have h1 := vramAddr_toNat s.hdma.dst i
  have h2 := vramAddr_toNat s.hdma.dst j
  unfold vramAddr at h1 h2
  unfold State.hdmaTo at h0
  have := s.hdma.dst.isLt
  omega

/-- A byte of plain VRAM as it is peeked. -/
theorem State.peek_hdmaTo {s y : State} (hm : y.bus.map = s.bus.map) {j : Nat}
    (hp : s.busKind (s.hdmaTo j) = .plain) : y.peek (s.hdmaTo j) = y.bus.mem.read (s.hdmaTo j).toNat := by
  have h1 : y.coreReg (s.hdmaTo j) = none := by
    unfold State.coreReg
    exact vramAddr_coreReg _ s.hdma.dst j
  have h2 : y.busKind (s.hdmaTo j) = .plain := by
    unfold State.busKind at hp ⊢
    rw [hm]
    exact hp
  simp only [State.peek, State.coreByte, h1, State.busByte, h2]

/-- After the first `m` bytes of a transfer that started in `s` with `blocks` blocks to go (60_exceptions.md R267). -/
structure HdmaCopied (s : State) (blocks m : Nat) (y : State) : Prop where
  writesOnly : WritesOnly s y
  timer : y.timer = s.timer
  dma : y.dma = s.dma
  ie : y.ie = s.ie
  ifl : y.ifl = s.ifl
  active : y.hdma.active = s.hdma.active
  reads : y.bus.reads = s.bus.reads + s.hdmaExternals m
  frame : ∀ x : Word, (∀ i < m, x ≠ s.hdmaTo i) → y.bus.mem.read x.toNat = s.bus.mem.read x.toNat
  bytes : ∀ i < m, HdmaByte s y blocks i

/-- What a byte leaves is told by the bytes of VRAM alone. -/
theorem HdmaByte.congr {s y t : State} {blocks j : Nat} (h : HdmaByte s y blocks j)
    (hk : ∀ i ≤ j, t.peek (s.hdmaTo i) = y.peek (s.hdmaTo i)) : HdmaByte s t blocks j := by
  obtain ⟨v1, v2, v3, v4⟩ := h
  unfold HdmaByte
  rw [hk j (Nat.le_refl j)]
  refine ⟨fun a b => ⟨(v1 a b).1, fun i hi e => ?_⟩, v2, v3, v4⟩
  rw [hk i (by omega)]
  exact (v1 a b).2 i hi e

theorem HdmaCopied.start {s y : State} {blocks : Nat} (hw : WritesOnly s y) (h1 : y.timer = s.timer) (h2 : y.dma = s.dma)
    (h3 : y.ie = s.ie) (h4 : y.ifl = s.ifl) (h5 : y.hdma.active = s.hdma.active) (h6 : y.bus = s.bus) :
    HdmaCopied s blocks 0 y :=
  ⟨hw, h1, h2, h3, h4, h5, by rw [h6]; rfl, fun _ _ => by rw [h6], fun i hi => absurd hi (Nat.not_lt_zero i)⟩

/-- One byte more. -/
theorem HdmaCopied.one {s y : State} {blocks m n : Nat} (h : HdmaCopied s blocks m y) (hm : m < n) (hn : n ≤ 8192)
    (hp : ∀ j < n, s.busKind (s.hdmaTo j) = .plain) (hr : y.hdma.remaining = blocks - m / 16) :
    HdmaCopied s blocks (m + 1)
      ((y.afterCoreRead (s.hdmaFrom m)).vramWrite (s.hdmaTo m) (y.coreByte (s.hdmaFrom m))) := by
  have hro := y.afterCoreRead_readsOnly (s.hdmaFrom m)
  have hw := h.writesOnly.trans (hro.writesOnly.trans
    (State.vramWrite_writesOnly (s.hdmaTo m) (y.coreByte (s.hdmaFrom m)) (y.afterCoreRead (s.hdmaFrom m))))
  have cr : ∀ x, y.coreReg x = s.coreReg x := fun x => h.writesOnly.coreReg x
  have bk : ∀ x, y.busKind x = s.busKind x := fun x => h.writesOnly.busKind x
  have ez : (y.afterCoreRead (s.hdmaFrom m)).vramWrite (s.hdmaTo m) (y.coreByte (s.hdmaFrom m)) =
      { y.afterCoreRead (s.hdmaFrom m) with
        bus := { (y.afterCoreRead (s.hdmaFrom m)).bus with
                 mem := y.bus.mem.write (s.hdmaTo m).toNat (y.coreByte (s.hdmaFrom m)) } } := by
    unfold State.vramWrite State.busWrite
    rw [if_pos (s.hdmaTo_range m), hro.writesOnly.busKind, bk, hp m hm]
    simp
  have erd : (y.afterCoreRead (s.hdmaFrom m)).bus.reads = y.bus.reads +
      if s.coreReg (s.hdmaFrom m) = none ∧ s.busKind (s.hdmaFrom m) = .external then 1 else 0 := by
    unfold State.afterCoreRead
    rw [cr]
    cases hc : s.coreReg (s.hdmaFrom m) with
    | some r => simp
    | none =>
      simp only [true_and]
      unfold State.afterBusRead
      rw [bk]
      cases s.busKind (s.hdmaFrom m) <;> simp
  generalize hz : (y.afterCoreRead (s.hdmaFrom m)).vramWrite (s.hdmaTo m) (y.coreByte (s.hdmaFrom m)) = z at *
  have rd : ∀ k < n, z.peek (s.hdmaTo k) =
      if s.hdmaTo k = s.hdmaTo m then y.coreByte (s.hdmaFrom m) else y.peek (s.hdmaTo k) := by
    intro k hk
    rw [State.peek_hdmaTo hw.2 (hp k hk), State.peek_hdmaTo h.writesOnly.2 (hp k hk), ez]
    simp only
    rw [Memory.read_write]
    by_cases e : s.hdmaTo k = s.hdmaTo m
    · simp [e]
    · rw [if_neg (Word.toNat_ne e), if_neg e]
  have same : ∀ k < m, z.peek (s.hdmaTo k) = y.peek (s.hdmaTo k) := fun k hk => by
    rw [rd k (by omega), if_neg (s.hdmaTo_ne (by omega) (by omega) (by omega))]
  refine ⟨hw, ?_, ?_, ?_, ?_, ?_, ?_, fun x hx => ?_, fun i hi => ?_⟩
  · rw [ez]; simp [h.timer]
  · rw [ez]; simp [h.dma]
  · rw [ez]; simp [h.ie]
  · rw [ez]; simp [h.ifl]
  · rw [ez]; simp [h.active]
  · rw [ez]; simp only; rw [erd, h.reads, State.hdmaExternals, Nat.add_assoc]
  · rw [ez]
    simp only
    rw [Memory.read_write_other _ _ _ _ (Word.toNat_ne (hx m (by omega)))]
    exact h.frame x (fun i hi => hx i (by omega))
  · by_cases him : i < m
    · exact (h.bytes i him).congr (fun k hk => same k (by omega))
    · have : i = m := by omega
      subst this
      unfold HdmaByte
      rw [rd i hm, if_pos rfl]
      refine ⟨fun a b => ⟨fun no => ?_, fun k hk e => ?_⟩, fun r hr' hne => ?_, fun h5 => ?_, fun a b => ?_⟩
      · simp only [State.coreByte, State.peek, cr, a, State.busByte, bk]
        cases hb : s.busKind (s.hdmaFrom i) with
        | external => exact absurd hb b
        | unmapped => rfl
        | plain => exact h.frame _ no
      · rw [same k hk, State.peek_hdmaTo h.writesOnly.2 (hp k (by omega))]
        simp only [State.coreByte, cr, a, State.busByte, bk]
        rw [e, hp k (by omega)]
      · simp only [State.coreByte, cr, hr']
        cases r <;> first | exact absurd rfl hne | simp only [State.coreRegByte, h.timer, h.ifl, h.ie, h.dma]
      · simp only [State.coreByte, cr, h5, State.coreRegByte]
        rw [Hdma.status_toNat, h.active, hr]
      · simp only [State.coreByte, cr, a, State.busByte, bk, b, h.reads]

/-- The `n` first bytes of a block more. -/
theorem HdmaCopied.copy {s y : State} {blocks m k n : Nat} (h : HdmaCopied s blocks (16 * m) y) (hk : 16 * m + k ≤ n)
    (h16 : k ≤ 16) (hn : n ≤ 8192) (hp : ∀ j < n, s.busKind (s.hdmaTo j) = .plain) (hr : y.hdma.remaining = blocks - m)
    (e1 : y.hdma.src = s.hdma.src + BitVec.ofNat 16 (16 * m)) (e2 : y.hdma.dst = s.hdma.dst + BitVec.ofNat 13 (16 * m)) :
    HdmaCopied s blocks (16 * m + k) (y.hdmaCopy k) := by
  induction k with
  | zero => exact h
  | succ k ih =>
    simp only [State.hdmaCopy, Hdma.dstAt_eq, State.hdmaCopy_hdma, Hdma.srcAt]
    rw [e1, e2, vramAddr_add, BitVec.add_assoc, ← BitVec.ofNat_add]
    refine HdmaCopied.one (m := 16 * m + k) (n := n) (ih (by omega) (by omega)) (by omega) hn hp ?_
    rw [State.hdmaCopy_hdma, hr, show (16 * m + k) / 16 = m by omega]

/-- A block more (60_exceptions.md R265, R267). -/
theorem HdmaCopied.step {s y : State} {blocks m n : Nat} (h : HdmaCopied s blocks (16 * m) y) (hm : 16 * m + 16 ≤ n)
    (hn : n ≤ 8192) (hp : ∀ j < n, s.busKind (s.hdmaTo j) = .plain) (hr : y.hdma.remaining = blocks - m)
    (e1 : y.hdma.src = s.hdma.src + BitVec.ofNat 16 (16 * m)) (e2 : y.hdma.dst = s.hdma.dst + BitVec.ofNat 13 (16 * m)) :
    HdmaCopied s blocks (16 * (m + 1)) y.hdmaStep := by
  obtain ⟨-, a2, a3, a4, a5, a6, a7, a8, a9⟩ := h.copy (k := 16) hm (by omega) hn hp hr e1 e2
  have hw := h.writesOnly.trans y.hdmaStep_writesOnly
  refine ⟨hw, a2, a3, a4, a5, a6, a7, a8, fun i hi => (a9 i hi).congr fun k hk => ?_⟩
  have hc := h.writesOnly.trans (y.hdmaCopy_writesOnly 16)
  rw [State.peek_hdmaTo hw.2 (hp k (by omega)), State.peek_hdmaTo hc.2 (hp k (by omega))]
  rfl

/-- `k` blocks more (60_exceptions.md R265). -/
theorem HdmaCopied.blocks {s y : State} {blocks m k n : Nat} (h : HdmaCopied s blocks (16 * m) y) (hk : 16 * m + 16 * k ≤ n)
    (hn : n ≤ 8192) (hp : ∀ j < n, s.busKind (s.hdmaTo j) = .plain) (hd : y.hdma.dst.extractLsb' 0 4 = 0#4)
    (hr : y.hdma.remaining = blocks - m) (e1 : y.hdma.src = s.hdma.src + BitVec.ofNat 16 (16 * m))
    (e2 : y.hdma.dst = s.hdma.dst + BitVec.ofNat 13 (16 * m)) : HdmaCopied s blocks (16 * (m + k)) (y.hdmaBlocks k) := by
  induction k generalizing y m with
  | zero => exact h
  | succ k ih =>
    obtain ⟨d1, d2⟩ := hdmaDst_advance _ hd
    have e := y.hdmaStep_parts
    rw [d1] at e
    have := ih (h.step (by omega) hn hp hr e1 e2) (by omega) (by rw [e]; exact d2) (by rw [e]; simp only; omega)
      (by rw [e, e1]; simp [Nat.mul_add, BitVec.ofNat_add, BitVec.add_assoc])
      (by rw [e, e2]; simp [Nat.mul_add, BitVec.ofNat_add, BitVec.add_assoc])
    rw [show m + (k + 1) = m + 1 + k by omega]
    exact this

/-- `n` blocks change no other byte. -/
theorem State.hdmaBlocks_read_other (n : Nat) (s : State) (x : Word) (hd : s.hdma.dst.extractLsb' 0 4 = 0#4)
    (h : ∀ i < 16 * n, x ≠ vramAddr s.hdma.dst i) : (s.hdmaBlocks n).bus.mem.read x.toNat = s.bus.mem.read x.toNat := by
  induction n generalizing s with
  | zero => rfl
  | succ k ih =>
    obtain ⟨d1, d2⟩ := hdmaDst_advance _ hd
    have e := s.hdmaStep_parts
    rw [d1] at e
    simp only [State.hdmaBlocks]
    rw [ih s.hdmaStep (by rw [e]; exact d2) (fun i hi => ?_)]
    · exact s.hdmaCopy_read_other 16 x (fun i hi => h i (by omega))
    · rw [e]
      simp only
      rw [show (16 : BitVec 13) = BitVec.ofNat 13 16 from rfl, vramAddr_add]
      exact h _ (by omega)

/-- The host's HBlank event changes the HDMA engine and the bus contents alone (60_exceptions.md R268, R269). -/
theorem State.hblankBlock_others (s : State) : WritesOnly s s.hblankBlock ∧ s.hblankBlock.timer = s.timer ∧
    s.hblankBlock.dma = s.dma ∧ s.hblankBlock.ie = s.ie ∧ s.hblankBlock.ifl = s.ifl := by
  have same : WritesOnly s s ∧ s.timer = s.timer ∧ s.dma = s.dma ∧ s.ie = s.ie ∧ s.ifl = s.ifl := ⟨.refl, rfl, rfl, rfl, rfl⟩
  unfold State.hblankBlock
  split
  · exact same
  · split
    · have w := s.hdmaStep_writesOnly
      exact ⟨⟨by rw [w.1], w.2⟩, s.hdmaBlocks_others 1⟩
    · exact same

end Sys2Proof.Machine
end

