-- ==== Sys2Proof/Laws/Independent.lean ====
section
/-! SUPPORT. A write depends on the memory side of the state alone: the Processor's registers play no part in it. -/
namespace Sys2Proof.Machine

/-- The Processor's registers of `s`, with the memory side (core registers, engines, bus, parameters) of `u`. -/
def State.withMemoryOf (s u : State) : State :=
  { s with ie := u.ie, ifl := u.ifl, timer := u.timer, dma := u.dma, hdma := u.hdma, bus := u.bus, cfg := u.cfg }

theorem State.busWrite_withMemoryOf (c s : State) (addr : Word) (v : Byte) :
    State.busWrite addr v (c.withMemoryOf s) = c.withMemoryOf (s.busWrite addr v) := by
  have e : (c.withMemoryOf s).busKind addr = s.busKind addr := rfl
  unfold State.busWrite
  rw [e]
  split <;> rfl

theorem State.vramWrite_withMemoryOf (c s : State) (addr : Word) (v : Byte) :
    State.vramWrite addr v (c.withMemoryOf s) = c.withMemoryOf (s.vramWrite addr v) := by
  unfold State.vramWrite
  split
  · exact c.busWrite_withMemoryOf s addr v
  · rfl

theorem State.afterCoreRead_withMemoryOf (c s : State) (addr : Word) :
    (c.withMemoryOf s).afterCoreRead addr = c.withMemoryOf (s.afterCoreRead addr) := by
  have e : (c.withMemoryOf s).busKind addr = s.busKind addr := rfl
  have e2 : (c.withMemoryOf s).coreReg addr = s.coreReg addr := rfl
  unfold State.afterCoreRead State.afterBusRead
  rw [e2]
  split
  · rfl
  · rw [e]
    split <;> rfl

theorem State.hdmaCopy_withMemoryOf (n : Nat) (c s : State) :
    (c.withMemoryOf s).hdmaCopy n = c.withMemoryOf (s.hdmaCopy n) := by
  induction n with
  | zero => rfl
  | succ k ih =>
    simp only [State.hdmaCopy, ih, State.afterCoreRead_withMemoryOf, State.vramWrite_withMemoryOf]
    rfl

theorem State.hdmaStep_withMemoryOf (c s : State) : (c.withMemoryOf s).hdmaStep = c.withMemoryOf s.hdmaStep := by
  simp only [State.hdmaStep, State.hdmaBlock, State.hdmaCopy_withMemoryOf]
  generalize s.hdmaCopy 16 = x
  rfl

theorem State.hdmaBlocks_withMemoryOf (n : Nat) (c s : State) :
    (c.withMemoryOf s).hdmaBlocks n = c.withMemoryOf (s.hdmaBlocks n) := by
  induction n generalizing s with
  | zero => rfl
  | succ k ih => simp only [State.hdmaBlocks, State.hdmaStep_withMemoryOf, ih]

theorem State.writeHdma5_withMemoryOf (c s : State) (v : Byte) :
    State.writeHdma5 v (c.withMemoryOf s) = c.withMemoryOf (s.writeHdma5 v) := by
  have e : (c.withMemoryOf s).hdma = s.hdma := rfl
  unfold State.writeHdma5
  rw [e]
  split
  · split <;> rfl
  · split
    · rfl
    · have h := State.hdmaBlocks_withMemoryOf (hdmaBlockCount v) c
        { s with hdma := { s.hdma with remaining := hdmaBlockCount v, stopped := false, mode := .general } }
      have e2 : ({ c.withMemoryOf s with
            hdma := { s.hdma with remaining := hdmaBlockCount v, stopped := false, mode := .general } } : State) =
          c.withMemoryOf
            { s with hdma := { s.hdma with remaining := hdmaBlockCount v, stopped := false, mode := .general } } := rfl
      simp only [e2, h]
      generalize State.hdmaBlocks _ _ = x
      rfl

theorem State.writeCoreReg_withMemoryOf (c s : State) (r : CoreReg) (v : Byte) :
    State.writeCoreReg r v (c.withMemoryOf s) = c.withMemoryOf (s.writeCoreReg r v) := by
  cases r <;> first | rfl | exact c.writeHdma5_withMemoryOf s v

theorem State.memWrite_withMemoryOf (c s : State) (addr : Word) (v : Byte) :
    State.memWrite addr v (c.withMemoryOf s) = c.withMemoryOf (s.memWrite addr v) := by
  have e : (c.withMemoryOf s).busLocked addr = s.busLocked addr := rfl
  have e2 : (c.withMemoryOf s).coreReg addr = s.coreReg addr := rfl
  unfold State.memWrite State.coreWrite
  rw [e, e2]
  split
  · rfl
  · split
    · exact c.writeCoreReg_withMemoryOf s _ v
    · exact c.busWrite_withMemoryOf s addr v

theorem StoredAs.refl (s : State) : StoredAs s s := ⟨rfl, rfl, rfl, rfl, rfl, rfl⟩

theorem StoredAs.trans {s t u : State} (h1 : StoredAs s t) (h2 : StoredAs t u) : StoredAs s u := by
  obtain ⟨a0, a1, a2, a3, a4, a5⟩ := h1
  obtain ⟨b0, b1, b2, b3, b4, b5⟩ := h2
  exact ⟨b0.trans a0, b1.trans a1, b2.trans a2, b3.trans a3, b4.trans a4, b5.trans a5⟩

/-- The same write in two states with the same memory side leaves the same memory side. -/
theorem StoredAs.memWrite {u t : State} (h : StoredAs u t) (hc : t.cfg = u.cfg) (addr : Word) (v : Byte) :
    StoredAs (u.memWrite addr v) (t.memWrite addr v) := by
  obtain ⟨h1, h2, h3, h4, h5, h6⟩ := h
  have e : t = t.withMemoryOf u := by
    simp only [State.withMemoryOf]
    rw [← h1, ← h2, ← h3, ← h4, ← h5, ← h6, ← hc]
  rw [e, State.memWrite_withMemoryOf]
  exact ⟨rfl, rfl, rfl, rfl, rfl, rfl⟩

/-- Two stores to two plain bytes. -/
theorem State.memWrite_two (s : State) (x y : Word) (v w : Byte) (h1 : s.PlainCell x) (h2 : s.PlainCell y) (ne : x ≠ y)
    {u : State} (hu : u = State.memWrite y w (s.memWrite x v)) :
    u.peek x = v ∧ u.peek y = w ∧ PeripheralsKept s u ∧
      ∀ z : Word, z ≠ x → z ≠ y → u.bus.mem.read z.toNat = s.bus.mem.read z.toNat := by
  subst hu
  have k := s.memWrite_writesOnly x v
  obtain ⟨a1, a2, a3, a4, a5⟩ := s.memWrite_peripherals x v h1.2.1
  have h2' : (s.memWrite x v).PlainCell y := by
    refine ⟨?_, by rw [k.coreReg]; exact h2.2.1, by rw [k.busKind]; exact h2.2.2⟩
    have := h2.1
    unfold State.busLocked at *
    rw [a4]
    exact this
  obtain ⟨b1, b2, b3, b4, b5⟩ := State.memWrite_peripherals y w (s.memWrite x v) h2'.2.1
  refine ⟨?_, State.memWrite_peek _ _ _ h2', ⟨b1.trans a1, b2.trans a2, b3.trans a3, b4.trans a4, b5.trans a5⟩, ?_⟩
  · have hk := (State.memWrite_bytesKept y w (s.memWrite x v)).1 (by simpa [k.coreReg] using h2.2.1) x (by simpa using ne)
      (Or.inr (by rw [k.busKind, h1.2.2]; simp))
    rw [hk]
    exact s.memWrite_peek _ _ h1
  · intro z hz1 hz2
    rw [State.memWrite_read_other _ _ _ _ (by rw [k.coreReg, h2.2.1]; simp) hz2,
      State.memWrite_read_other _ _ _ _ (by rw [h1.2.1]; simp) hz1]

theorem Word.below_ne (w : Word) : w - 1 ≠ w - 2 := by simp

/-- A write does not depend on SP. -/
theorem State.memWrite_setSp (addr p : Word) (v : Byte) (s : State) :
    State.memWrite addr v { s with sp := p } = { s.memWrite addr v with sp := p } := by
  have h1 : ({ s with sp := p } : State) = State.withMemoryOf { s with sp := p } s := rfl
  have h2 : ({ s.memWrite addr v with sp := p } : State) = State.withMemoryOf { s with sp := p } (s.memWrite addr v) := by
    conv_lhs => rw [(s.memWrite_writesOnly addr v).1]
    simp [State.withMemoryOf]
  rw [h1, h2, State.memWrite_withMemoryOf]

/-- A push is two writes below SP, high byte first, and SP moved down by 2 (00_scope.md R14). -/
theorem State.push16_eq (v : Word) (s : State) :
    s.push16 v = { State.memWrite (s.sp - 2) (loByte v) (s.memWrite (s.sp - 1) (hiByte v)) with sp := s.sp - 2 } := by
  have e : s.sp - 1 - 1 = s.sp - 2 := by bv_omega
  simp only [State.push16, State.memWrite_setSp, e]

@[simp] theorem State.push16_sp (v : Word) (s : State) : (s.push16 v).sp = s.sp - 2 := by simp [State.push16_eq]
@[simp] theorem State.push16_pc (v : Word) (s : State) : (s.push16 v).pc = s.pc := by simp [State.push16_eq]
@[simp] theorem State.push16_f (v : Word) (s : State) : (s.push16 v).f = s.f := by simp [State.push16_eq]

theorem State.push16_regsKept (v : Word) (s : State) : RegsKept [] s (s.push16 v) := by
  intro r _
  cases r <;> simp [State.push16_eq, State.getReg]

theorem State.push16_storeFrame (v : Word) (s : State) : StoreFrame [s.sp - 1, s.sp - 2] s (s.push16 v) := by
  have w := s.memWrite_writesOnly (s.sp - 1) (hiByte v)
  have w2 := w.trans (State.memWrite_writesOnly (s.sp - 2) (loByte v) _)
  have k := (s.memWrite_bytesKept (s.sp - 1) (hiByte v)).trans (State.memWrite_bytesKept (s.sp - 2) (loByte v) _) w
  rw [s.push16_eq v]
  refine ⟨w2.controlKept, .of_bus_right w2 rfl rfl ⟨rfl, rfl, rfl, rfl, rfl⟩ k, fun h => ?_⟩
  obtain ⟨a1, a2, a3, a4, a5⟩ := s.memWrite_peripherals (s.sp - 1) (hiByte v) (h _ (by simp))
  obtain ⟨b1, b2, b3, b4, b5⟩ := State.memWrite_peripherals (s.sp - 2) (loByte v) (s.memWrite (s.sp - 1) (hiByte v))
    (by rw [w.coreReg]; exact h _ (by simp))
  exact ⟨b1.trans a1, b2.trans a2, b3.trans a3, b4.trans a4, b5.trans a5⟩

/-- `push16` pushes. -/
theorem State.push16_pushes (v : Word) (s : State) : Pushes v s (s.push16 v) := by
  refine ⟨by simp, ?_, s.push16_regsKept v, by simp, s.push16_storeFrame v, fun h1 h2 => ?_⟩
  · rw [s.push16_eq]
    exact ⟨rfl, rfl, rfl, rfl, rfl, rfl⟩
  · obtain ⟨a, b, _⟩ := s.memWrite_two (s.sp - 1) (s.sp - 2) (hiByte v) (loByte v) h1 h2 (Word.below_ne _) rfl
    rw [s.push16_eq]
    exact ⟨a, b⟩

end Sys2Proof.Machine
end

