-- ==== Sys2Proof/Laws/Shapes.lean ====
section
/-! SUPPORT. The shapes of the instructions' effects: reading and then writing registers, storing bytes, modifying an operand, popping. -/
namespace Sys2Proof.Machine

/-! ## Register results -/

/-- After a read, a change of the registers `regs` and of F alone. -/
theorem ReadsOnly.nothingElse {s u t : State} (h : ReadsOnly s u) (regs : List Reg8) (hr : RegsKept regs u t)
    (hsp : t.sp = u.sp) (hpc : t.pc = u.pc) (hc : ControlKept u t) (hp : PeripheralsKept u t) (hb : t.bus = u.bus) :
    NothingElse regs s t := by
  have hk := OtherBytesKept.of_bus_right h.writesOnly hc.2.2.2.2.2.2.2.2.1 hb hp h.bytesKept
  have h1 := h.controlKept
  have h2 := h.peripheralsKept
  obtain ⟨n, rfl⟩ := h
  obtain ⟨a1, a2, a3, a4, a5, a6, a7, a8, a9, a10, a11⟩ := h1
  obtain ⟨b1, b2, b3, b4, b5, b6, b7, b8, b9, b10, b11⟩ := hc
  obtain ⟨c1, c2, c3, c4, c5⟩ := h2
  obtain ⟨d1, d2, d3, d4, d5⟩ := hp
  refine ⟨fun r hr' => ?_, hsp, hpc,
    ⟨b1.trans a1, b2.trans a2, b3.trans a3, b4.trans a4, b5.trans a5, b6.trans a6, b7.trans a7, b8.trans a8, b9.trans a9,
      b10.trans a10, b11.trans a11⟩,
    ⟨d1.trans c1, d2.trans c2, d3.trans c3, d4.trans c4, d5.trans c5⟩, hk⟩
  rw [hr r hr']
  cases r <;> rfl

theorem State.setReg_regsKept (r : Reg8) (v : Byte) (s : State) : RegsKept [r] s (s.setReg r v) := by
  intro x hx
  have : x ≠ r := by simpa using hx
  cases r <;> cases x <;> first | rfl | exact absurd rfl this

theorem State.setReg_controlKept (r : Reg8) (v : Byte) (s : State) : ControlKept s (s.setReg r v) := by
  cases r <;> exact ⟨rfl, rfl, rfl, rfl, rfl, rfl, rfl, rfl, rfl, rfl, rfl⟩

theorem State.setReg_peripheralsKept (r : Reg8) (v : Byte) (s : State) : PeripheralsKept s (s.setReg r v) := by
  cases r <;> exact ⟨rfl, rfl, rfl, rfl, rfl⟩

/-- A read, and then a write of one register. -/
theorem ReadsOnly.setReg_nothingElse {s u : State} (h : ReadsOnly s u) (r : Reg8) (v : Byte) :
    NothingElse [r] s (u.setReg r v) :=
  h.nothingElse [r] (u.setReg_regsKept r v) (by simp) (by simp) (u.setReg_controlKept r v) (u.setReg_peripheralsKept r v)
    (by simp)

/-- Flags play no part in the frame. -/
theorem NothingElse.setFlags {regs : List Reg8} {s t : State} (h : NothingElse regs s t) (v : Byte) :
    NothingElse regs s (t.setFlags v) := by
  obtain ⟨h1, h2, h3, h4, h5, h6⟩ := h
  refine ⟨fun r hr => ?_, h2, h3, h4, h5, ?_⟩
  · rw [← h1 r hr]
    cases r <;> rfl
  · exact h6

theorem NothingElse.putFlags {regs : List Reg8} {s t : State} (h : NothingElse regs s t) (z n hf c : Bool) :
    NothingElse regs s (t.putFlags z n hf c) := h.setFlags _

/-- After the flags were written, they are the ones written. -/
theorem State.setFlags_hasFlags (z n h c : Bool) (s : State) : HasFlags (s.setFlags (packFlags z n h c)) z n h c := by
  refine ⟨?_, ?_, ?_, ?_, and_f0_low _⟩ <;>
    simp only [State.flagZ, State.flagN, State.flagH, State.flagC, State.setFlags] <;> revert z n h c <;> decide

theorem State.putFlags_hasFlags (z n h c : Bool) (s : State) : HasFlags (s.putFlags z n h c) z n h c :=
  s.setFlags_hasFlags z n h c

/-! ## Stores -/

theorem State.memWrite_storeFrame (addr : Word) (v : Byte) (s : State) : StoreFrame [addr] s (s.memWrite addr v) :=
  ⟨(s.memWrite_writesOnly addr v).controlKept, s.memWrite_bytesKept addr v,
    fun h => s.memWrite_peripherals addr v (h addr (by simp))⟩

theorem State.memWrite_regsKept (addr : Word) (v : Byte) (s : State) : RegsKept [] s (s.memWrite addr v) :=
  fun r _ => (s.memWrite_writesOnly addr v).getReg r

theorem State.memWrite_storesOnly (addr : Word) (v : Byte) (s : State) : StoresOnly addr v s (s.memWrite addr v) :=
  ⟨.refl _, by simp, by simp, by simp, s.memWrite_storeFrame addr v, s.memWrite_peek addr v⟩

/-! ## An operand read and written -/

/-- A write after a read: the frame is that of the write. -/
theorem StoreFrame.of_readsOnly {s u t : State} {stored : List Word} (h : ReadsOnly s u) (hf : StoreFrame stored u t) :
    StoreFrame stored s t := by
  obtain ⟨f1, f2, f3⟩ := hf
  have h1 := h.controlKept
  have hw := h.writesOnly
  have hk := OtherBytesKept.trans h.bytesKept f2 hw
  refine ⟨?_, by simpa using hk, fun hs => ?_⟩
  · obtain ⟨a1, a2, a3, a4, a5, a6, a7, a8, a9, a10, a11⟩ := h1
    obtain ⟨b1, b2, b3, b4, b5, b6, b7, b8, b9, b10, b11⟩ := f1
    exact ⟨b1.trans a1, b2.trans a2, b3.trans a3, b4.trans a4, b5.trans a5, b6.trans a6, b7.trans a7, b8.trans a8,
      b9.trans a9, b10.trans a10, b11.trans a11⟩
  · obtain ⟨c1, c2, c3, c4, c5⟩ := h.peripheralsKept
    obtain ⟨d1, d2, d3, d4, d5⟩ := f3 (fun a ha => by rw [hw.coreReg]; exact hs a ha)
    exact ⟨d1.trans c1, d2.trans c2, d3.trans c3, d4.trans c4, d5.trans c5⟩

theorem State.PlainCell.of_readsOnly {s u : State} {addr : Word} (h : ReadsOnly s u) (hp : s.PlainCell addr) :
    u.PlainCell addr := by
  obtain ⟨n, rfl⟩ := h
  exact hp

/-- Reading an operand and writing it back changes that operand alone. -/
theorem State.modify_modifiesLoc (o : Loc) (v : Byte) (s : State) : ModifiesLoc o v s ((s.afterLoc o).writeLoc o v) := by
  cases o with
  | reg r => exact ⟨State.getReg_setReg_same r v s, ReadsOnly.refl.setReg_nothingElse r v⟩
  | atHl =>
    have h := s.afterRead_readsOnly s.hl
    have e : (s.afterLoc .atHl).writeLoc .atHl v = State.memWrite s.hl v (s.afterRead s.hl) := by
      simp [State.writeLoc, State.afterLoc, State.hl]
    rw [e]
    refine ⟨.refl _, fun r _ => ?_, by simp, by simp, .of_readsOnly h (State.memWrite_storeFrame _ _ _), fun hp => ?_⟩
    · rw [State.getReg_memWrite]
      obtain ⟨n, hn⟩ := h
      rw [hn]
      cases r <;> rfl
    · exact State.memWrite_peek _ _ _ (hp.of_readsOnly h)

theorem ModifiesLoc.setFlags {o : Loc} {v : Byte} {s t : State} (h : ModifiesLoc o v s t) (w : Byte) :
    ModifiesLoc o v s (t.setFlags w) := by
  cases o with
  | reg r =>
    refine ⟨?_, h.2.setFlags w⟩
    rw [← h.1]
    cases r <;> rfl
  | atHl =>
    obtain ⟨h1, h2, h3, h4, h5, h6⟩ := h
    refine ⟨h1, fun r hr => ?_, h3, h4, h5, h6⟩
    rw [← h2 r hr]
    cases r <;> rfl

/-! ## Popping -/

theorem State.popWord_eq (s : State) : s.popWord = mkWord ((s.afterRead s.sp).readByte (s.sp + 1)) (s.readByte s.sp) := rfl

theorem State.afterPop_readsOnly (s : State) : ∃ u, ReadsOnly s u ∧ s.afterPop = { u with sp := s.sp + 2 } :=
  ⟨_, (s.afterRead_readsOnly s.sp).trans ((s.afterRead s.sp).afterRead_readsOnly (s.sp + 1)), rfl⟩

/-- What `pop16` leaves unchanged: everything but SP. -/
theorem State.afterPop_frame (s : State) : s.afterPop.sp = s.sp + 2 ∧ s.afterPop.pc = s.pc ∧ s.afterPop.f = s.f ∧
    RegsKept [] s s.afterPop ∧ ControlKept s s.afterPop ∧ PeripheralsKept s s.afterPop ∧ OtherBytesKept [] s s.afterPop := by
  obtain ⟨u, h, e⟩ := s.afterPop_readsOnly
  have k : OtherBytesKept [] s u := h.bytesKept
  have hk := OtherBytesKept.of_bus_right (t' := { u with sp := s.sp + 2 }) h.writesOnly rfl rfl ⟨rfl, rfl, rfl, rfl, rfl⟩ k
  rw [e]
  obtain ⟨n, rfl⟩ := h
  exact ⟨rfl, rfl, rfl, fun r _ => by cases r <;> rfl, ⟨rfl, rfl, rfl, rfl, rfl, rfl, rfl, rfl, rfl, rfl, rfl⟩,
    ⟨rfl, rfl, rfl, rfl, rfl⟩, hk⟩

/-! ## Register pairs -/

theorem State.setPair_pairOnly (p : Reg16) (v : Word) (s : State) : PairOnly p s (s.setPair p v) := by
  refine ⟨fun r hr => ?_, fun hp => ?_, by cases p <;> rfl, by cases p <;> rfl,
    by cases p <;> exact ⟨rfl, rfl, rfl, rfl, rfl, rfl, rfl, rfl, rfl, rfl, rfl⟩,
    by cases p <;> exact ⟨rfl, rfl, rfl, rfl, rfl⟩, ?_⟩
  · cases p <;> cases r <;> simp_all [pairRegs] <;> rfl
  · cases p <;> first | rfl | exact absurd rfl hp
  · exact .of_bus (by simp) (by simp) (by cases p <;> exact ⟨rfl, rfl, rfl, rfl, rfl⟩)

/-! ## Bit vectors as numbers -/

theorem append_byte_toNat {n : Nat} (x : BitVec n) (y : Byte) : (x ++ y).toNat = x.toNat * 256 + y.toNat := by
  rw [BitVec.toNat_append, ← Nat.shiftLeft_add_eq_or_of_lt y.isLt, Nat.shiftLeft_eq]

theorem mkWord_toNat (h l : Byte) : (mkWord h l).toNat = h.toNat * 256 + l.toNat := append_byte_toNat h l

theorem and_f0_toNat : ∀ v : Byte, (v &&& 0xF0).toNat = v.toNat / 16 * 16 := by decide

theorem lowNibble_eq (v : Byte) : lowNibble v = v.toNat % 16 := by
  revert v
  decide

theorem loByte_toNat (w : Word) : (loByte w).toNat = w.toNat % 256 := by
  rw [loByte, BitVec.extractLsb'_toNat]
  simp

theorem highPage_eq (n : Byte) : highPage n = BitVec.ofNat 16 (0xFF00 + n.toNat) := by
  apply BitVec.eq_of_toNat_eq
  have := n.isLt
  simp [highPage, BitVec.toNat_add]

theorem mkWord_and_f0 (a b : Byte) : mkWord a (b &&& 0xF0) = mkWord a b &&& 0xFFF0 := by
  apply BitVec.eq_of_getLsbD_eq
  intro i hi
  simp only [mkWord, BitVec.getLsbD_append, BitVec.getLsbD_and]
  have h16 : ∀ i < 16, (0xFFF0 : Word).getLsbD i = decide (4 ≤ i) := by decide
  have h8 : ∀ i < 8, (0xF0 : Byte).getLsbD i = decide (4 ≤ i) := by decide
  rw [h16 i hi]
  by_cases h : i < 8
  · rw [h8 i h]
    simp [h]
  · simp [h, show 4 ≤ i by omega]

/-- A signed byte added to a word, as integers (30_encoding.md R79). -/
theorem add_sext16_toNat (w : Word) (e : Byte) : ((w + sext16 e).toNat : Int) = (w.toNat + e.toInt) % 65536 := by
  have hs : (sext16 e).toInt = e.toInt := BitVec.toInt_signExtend_of_le (x := e) (show 8 ≤ 16 by omega)
  have h2 : ((sext16 e).toNat : Int) % 65536 = e.toInt % 65536 := by
    rw [← hs, BitVec.toInt_eq_toNat_bmod]
    exact (Int.bmod_emod (m := 65536)).symm
  rw [BitVec.toNat_add]
  push_cast
  omega

end Sys2Proof.Machine
end

