-- ==== Sys2Proof/Laws/Steps.lean ====
section
/-! SUPPORT. A Processor step, case by case: an instruction, a dispatch cycle, a wait; and what a step of the machine adds. -/
namespace Sys2Proof.Machine

/-- A step of the machine is a Processor step and its T-cycles (60_exceptions.md R275). -/
theorem step_of_procStep {s t : State} {n : Nat} (h : procStep s.hostPhase = .next (n, t)) :
    step s = .next (t.tCycles n) := by
  unfold step
  rw [h]

/-! ## Instructions -/

theorem procStep_instruction {s : State} (h : s.AtInstruction) : procStep s = s.instrStep := by
  obtain ⟨h1, h2, h3, h4⟩ := h
  simp [procStep, h1, h2, h3, h4]

/-- An instruction step answers a next state: the meaning of the instruction its opcode byte starts, its cost, and the
enable (60_exceptions.md R201, R202). -/
theorem State.instrStep_next (s : State) : ∃ b1 b2 t, exec (decodeOp (s.readByte s.pc) b1 b2) s.fetchInstr.2 = .next t ∧
    Effect s.fetchInstr.2 (decodeOp (s.readByte s.pc) b1 b2) t ∧
    s.instrStep = .next (if t.fault.isSome then (0, t)
      else (instrCost s.cfg (decodeOp (s.readByte s.pc) b1 b2) (s.taken (decodeOp (s.readByte s.pc) b1 b2)),
        t.finishInstr s.eiPending)) := by
  obtain ⟨b1, b2, hd⟩ := s.decode_fetchInstr
  obtain ⟨t, ht, he⟩ := exec_effect (decodeOp (s.readByte s.pc) b1 b2) s.fetchInstr.2
  refine ⟨b1, b2, t, ht, he, ?_⟩
  have hf := s.fetchInstr_fetchOnly
  unfold State.instrStep
  generalize hg : s.fetchInstr = g at *
  obtain ⟨bytes, s1⟩ := g
  simp only at hd ht he hf ⊢
  rw [hd]
  simp only [ht]
  obtain ⟨n, p, b, o, rfl⟩ := hf
  split <;> rfl

/-- Whether a transfer is taken depends on the flags alone. -/
theorem State.taken_congr {s t : State} (h : t.f = s.f) (i : Instr) : t.taken i = s.taken i := by
  unfold State.taken
  split
  · rename_i cc _
    cases cc <;> simp [State.cond, State.flagZ, State.flagC, h]
  · rfl

/-- The bytes of an instruction at PC are what the fetch reads. -/
theorem State.fetchInstr_of_bytesAt (h : State) (op : Byte) (operands : List Byte) (hb : h.haltBug = false)
    (hc : operands.length = operandCount op) (hy : h.BytesAt h.pc (op :: operands)) :
    h.fetchInstr = (op :: operands, { h.afterReads h.pc (operands.length + 1) with
      pc := h.pc + BitVec.ofNat 16 (operands.length + 1), opAddr := h.pc }) := by
  obtain ⟨h1, h2⟩ := hy
  have hop : h.fetchOpcode = (op, (h.afterRead h.pc).withFetch (h.pc + 1) false h.pc) := by
    simp only [State.fetchOpcode, h1, hb]
    simp [State.withFetch, hb]
  have hv := State.fetchBytes_of_bytesAt operands ((h.afterRead h.pc).withFetch (h.pc + 1) false h.pc)
    ((State.bytesAt_withFetch _ _ _ _ _ _).mpr h2)
  have hh : (State.afterReads (h.afterRead h.pc) (h.pc + 1) operands.length).haltBug = false := by
    obtain ⟨n, e⟩ := (h.afterRead_readsOnly h.pc).trans
      (State.afterReads_readsOnly operands.length (h.afterRead h.pc) (h.pc + 1))
    rw [e]
    exact hb
  unfold State.fetchInstr
  rw [hop]
  simp only [← hc, hv, State.afterReads]
  congr 1
  simp only [State.afterReads_withFetch]
  simp only [State.withFetch]
  rw [← hh]
  congr 1
  rw [BitVec.add_assoc, BitVec.ofNat_add, BitVec.add_comm (BitVec.ofNat 16 operands.length)]
  rfl

/-- What the end of an instruction may change: IME and the pending enable. -/
theorem State.finishInstr_keeps (armed : Bool) (s : State) :
    State.finishInstr armed s = { s with ime := (State.finishInstr armed s).ime,
                                         eiPending := (State.finishInstr armed s).eiPending } := by
  unfold State.finishInstr
  split <;> rfl

/-! ## Dispatch -/

theorem procStep_dispatch {s : State} (h1 : s.fault = none) (h2 : s.dispatchStage ≠ .idle) :
    procStep s = .next (4, s.dispatchCycle) := by
  simp [procStep, h1, h2]

/-- The start of a dispatch (60_exceptions.md R220). -/
theorem procStep_dispatchStart {s : State} (h1 : s.fault = none) (h2 : s.dispatchStage = .idle) (h3 : s.runState = .running)
    (h4 : s.eligible = true) : procStep s = .next (4, State.dispatchCycle { s with dispatchStage := .m1 }) := by
  unfold procStep
  rw [if_neg (by simp [h1]), if_neg (by simp [h2])]
  split
  · simp_all
  · simp_all
  · rw [if_pos h4]

theorem State.dispatchCycle_m1 {s : State} (h : s.dispatchStage = .m1) : s.dispatchCycle =
    { s with pc := if s.haltBug then s.pc - 1 else s.pc, haltBug := false, dispatchStage := .m2 } := by
  unfold State.dispatchCycle
  rw [h]
  cases hb : s.haltBug <;> simp

theorem State.dispatchCycle_m2 {s : State} (h : s.dispatchStage = .m2) :
    s.dispatchCycle = { s with dispatchStage := .m3 } := by
  unfold State.dispatchCycle
  rw [h]

theorem State.dispatchCycle_m3 {s : State} (h : s.dispatchStage = .m3) : s.dispatchCycle =
    { State.memWrite (s.sp - 1) (hiByte s.pc) { s with sp := s.sp - 1 } with dispatchStage := .m4 } := by
  unfold State.dispatchCycle
  rw [h]

theorem State.dispatchCycle_m4 {s : State} (h : s.dispatchStage = .m4) : s.dispatchCycle =
    { State.memWrite (s.sp - 1) (loByte s.pc) { s with sp := s.sp - 1, dispatchBit := lowestPending s.pending } with
      dispatchStage := .m5 } := by
  unfold State.dispatchCycle
  rw [h]

theorem State.dispatchCycle_m5 {s : State} (h : s.dispatchStage = .m5) : s.dispatchCycle =
    { s with
      ime := false
      eiPending := false
      ifl := match s.dispatchBit with | some k => s.ifl &&& ~~~(1#5 <<< k.bit) | none => s.ifl
      pc := match s.dispatchBit with | some k => k.vector | none => 0x0000
      dispatchBit := none
      dispatchStage := .idle } := by
  unfold State.dispatchCycle
  rw [h]
  cases s.dispatchBit <;> rfl

/-- A dispatch cycle leaves the general registers, F and the run state. -/
theorem State.dispatchCycle_keeps (s : State) : RegsKept [] s s.dispatchCycle ∧ s.dispatchCycle.f = s.f ∧
    s.dispatchCycle.runState = s.runState ∧ s.dispatchCycle.fault = s.fault := by
  refine ⟨fun r _ => ?_, ?_, ?_, ?_⟩
  · unfold State.dispatchCycle
    split <;> (try split) <;> cases r <;> simp [State.getReg]
  all_goals unfold State.dispatchCycle; split <;> (try split) <;> simp

end Sys2Proof.Machine
end

