-- ==== Sys2Proof/Tests/Slice0.lean ====
section
/-! SUPPORT. Tests: ill-formed terms are refused, written-out words decode, one step per instruction family gives the spec's own examples, and a concrete witness for the hypotheses of every statement. -/
namespace Sys2Proof.Tests
open Sys2Proof Sys2Proof.Machine

/-! ## Well-formedness: the one check refuses the bare prefix, whatever follows, and accepts the rest -/

theorem test_wellFormed_refuses_prefix : (Instr.prefixCb 0x7C).wellFormed = false := by decide
theorem test_wellFormed_accepts_nop : Instr.nop.wellFormed = true := by decide
theorem test_wellFormed_accepts_operands : (Instr.callNn 0xFFFF).wellFormed = true := by decide

/-! ## Decoding: words from 30_encoding.md R71 to R80, field by field -/

theorem test_decode_ldRegReg : decode [0b01_001_000] = .instr (.ldCB) [] := by decide
theorem test_decode_ldRegN : decode [0b00_111_110, 0x3C] = .instr (.ldAN 0x3C) [] := by decide
theorem test_decode_ldRegAtHl : decode [0b01_000_110] = .instr (.ldBAtHl) [] := by decide
theorem test_decode_ldAtHlReg : decode [0b01_110_111] = .instr (.ldAtHlA) [] := by decide
theorem test_decode_ldAtHlN : decode [0b00_110_110, 0x7F] = .instr (.ldAtHlN 0x7F) [] := by decide
theorem test_decode_ldAAtBc : decode [0b00_001_010] = .instr (.ldAAtBc) [] := by decide
theorem test_decode_ldAtDeA : decode [0b00_010_010] = .instr (.ldAtDeA) [] := by decide
theorem test_decode_ldAAtNn : decode [0b11_111_010, 0x23, 0xC1] = .instr (.ldAAtNn 0xC123) [] := by decide
theorem test_decode_ldAtNnA : decode [0b11_101_010, 0x46, 0xFF] = .instr (.ldAtNnA 0xFF46) [] := by decide
theorem test_decode_ldhAAtN : decode [0b11_110_000, 0x05] = .instr (.ldhAAtN 0x05) [] := by decide
theorem test_decode_ldhAtCA : decode [0b11_100_010] = .instr (.ldhAtCA) [] := by decide
theorem test_decode_ldAAtHlDec : decode [0b00_111_010] = .instr (.ldAAtHlDec) [] := by decide
theorem test_decode_ldPairNn : decode [0b00_11_0001, 0xFE, 0xFF] = .instr (.ldSpNn 0xFFFE) [] := by decide
theorem test_decode_ldAtNnSp : decode [0b00_001_000, 0x00, 0xC1] = .instr (.ldAtNnSp 0xC100) [] := by decide
theorem test_decode_push : decode [0b11_11_0101] = .instr (.pushAf) [] := by decide
theorem test_decode_pop : decode [0b11_01_0001] = .instr (.popDe) [] := by decide
theorem test_decode_aluReg : decode [0b10_111_010] = .instr (.cpD) [] := by decide
theorem test_decode_aluAtHl : decode [0b10_001_110] = .instr (.adcAAtHl) [] := by decide
theorem test_decode_aluN : decode [0b11_010_110, 0x3E] = .instr (.subN 0x3E) [] := by decide
theorem test_decode_inc8 : decode [0b00_000_100] = .instr (.incB) [] := by decide
theorem test_decode_dec8 : decode [0b00_110_101] = .instr (.decAtHl) [] := by decide
theorem test_decode_daa : decode [0b00_100_111] = .instr (.daa) [] := by decide
theorem test_decode_addHl : decode [0b00_00_1001] = .instr (.addHlBc) [] := by decide
theorem test_decode_incPair : decode [0b00_01_0011] = .instr (.incDe) [] := by decide
theorem test_decode_decPair : decode [0b00_11_1011] = .instr (.decSp) [] := by decide
theorem test_decode_addSp : decode [0b11_101_000, 0x02] = .instr (.addSpE 0x02) [] := by decide
theorem test_decode_ldHlSp : decode [0b11_111_000, 0x08] = .instr (.ldHlSpPlusE 0x08) [] := by decide
theorem test_decode_rra : decode [0b00_011_111] = .instr (.rra) [] := by decide
theorem test_decode_rot : decode [0xCB, 0b00_010_101] = .instr (.rlL) [] := by decide
theorem test_decode_bit : decode [0xCB, 0b01_111_100] = .instr (.bit7H) [] := by decide
theorem test_decode_res : decode [0xCB, 0b10_000_111] = .instr (.res0A) [] := by decide
theorem test_decode_set : decode [0xCB, 0b11_011_110] = .instr (.set3AtHl) [] := by decide
theorem test_decode_jpCond : decode [0b110_00_010, 0x00, 0x02] = .instr (.jpNzNn 0x0200) [] := by decide
theorem test_decode_jpHl : decode [0b11_101_001] = .instr (.jpHl) [] := by decide
theorem test_decode_jrCond : decode [0b001_11_000, 0x10] = .instr (.jrCE 0x10) [] := by decide
theorem test_decode_callCond : decode [0b110_10_100, 0x00, 0x20] = .instr (.callNcNn 0x2000) [] := by decide
theorem test_decode_retCond : decode [0b110_01_000] = .instr (.retZ) [] := by decide
theorem test_decode_reti : decode [0b11_011_001] = .instr (.reti) [] := by decide
theorem test_decode_rst : decode [0b11_101_111] = .instr (.rst28) [] := by decide
theorem test_decode_halt : decode [0b01_110_110] = .instr (.halt) [] := by decide
theorem test_decode_stop : decode [0x10, 0x00] = .instr (.stop 0x00) [] := by decide
theorem test_decode_ei : decode [0b11_111_011] = .instr (.ei) [] := by decide
theorem test_decode_di : decode [0b11_110_011] = .instr (.di) [] := by decide
theorem test_decode_unassigned : decode [0xE4] = .instr (.unassignedE4) [] := by decide
theorem test_decode_leaves_the_rest : decode [0x3E, 0x3C, 0x76] = .instr (.ldAN 0x3C) [0x76] := by decide
theorem test_table_word : decodeTableWord 24 0x1234CD = some (.callNn 0x1234) := by decide
theorem test_table_word_cb : decodeTableWord 16 0xCB7C = some .bit7H := by decide
/-- Operand bytes the table gives no bits are zeros. -/
theorem test_table_word_short : decodeTableWord 8 0xC3 = some (.jpNn 0x0000) := by decide

/-! ## One step: the examples of the rules

`after setup nbits w` is the state after one step from DMG reset changed by `setup`, with the instruction of the table word
`w` placed at PC. -/

def after (setup : State → State) (nbits w : Nat) : Option State :=
  match step ((setup State.reset).withFetchWord nbits w) with
  | .next t => some t
  | _ => none

/-- One byte put into the bus contents. -/
def poke (addr : Word) (v : Byte) (s : State) : State := { s with bus := { s.bus with mem := s.bus.mem.write addr.toNat v } }

/-- 40_load8.md R90. -/
theorem test_ldCB :
    (after (fun s => { s with b := 0x12 }) 8 0x48).map (fun t => (t.c, t.pc)) = some (0x12, 0x0101) := by decide
/-- 40_load8.md R91. -/
theorem test_ldAN :
    (after (fun s => s) 16 0x3C3E).map (fun t => (t.a, t.pc)) = some (0x3C, 0x0102) := by decide
/-- 40_load8.md R92. -/
theorem test_ldBAtHl :
    (after (fun s => poke 0xC000 0x5A { s with h := 0xC0, l := 0x00 }) 8 0x46).map (fun t => (t.b, t.f)) = some (0x5A, 0xB0) := by decide
/-- 40_load8.md R93. -/
theorem test_ldAtHlA :
    (after (fun s => { s with h := 0xC0, l := 0x10, a := 0x99 }) 8 0x77).map (fun t => (t.peek 0xC010, t.peek 0xC011)) = some (0x99, 0x00) := by decide
/-- 40_load8.md R94. -/
theorem test_ldAtHlN :
    (after (fun s => { s with h := 0xC0, l := 0x00 }) 16 0x7F36).map (fun t => t.peek 0xC000) = some 0x7F := by decide
/-- 40_load8.md R95. -/
theorem test_ldAAtBc :
    (after (fun s => poke 0xC100 0x21 { s with b := 0xC1, c := 0x00 }) 8 0x0A).map (fun t => t.a) = some 0x21 := by decide
/-- 40_load8.md R96. -/
theorem test_ldAAtDe :
    (after (fun s => poke 0xFF80 0x04 { s with d := 0xFF, e := 0x80 }) 8 0x1A).map (fun t => t.a) = some 0x04 := by decide
/-- 40_load8.md R97. -/
theorem test_ldAtBcA :
    (after (fun s => { s with b := 0xC0, c := 0x00 }) 8 0x02).map (fun t => t.peek 0xC000) = some 0x01 := by decide
/-- 40_load8.md R98: the address is TIMA's. -/
theorem test_ldAtDeA :
    (after (fun s => { s with d := 0xFF, e := 0x05, a := 0x80 }) 8 0x12).map (fun t => t.timer.tima) = some 0x80 := by decide
/-- 40_load8.md R99. -/
theorem test_ldAAtNn :
    (after (fun s => poke 0xC123 0x44 s) 24 0xC123FA).map (fun t => (t.a, t.pc)) = some (0x44, 0x0103) := by decide
/-- 40_load8.md R100: the address starts an OAM-DMA. -/
theorem test_ldAtNnA :
    (after (fun s => { s with a := 0xC0 }) 24 0xFF46EA).map (fun t => (t.dma.active, t.dma.source)) = some (true, 0xC0) := by decide
/-- 40_load8.md R101. -/
theorem test_ldhAAtN :
    (after (fun s => { s with timer := { s.timer with tima := 0x42 } }) 16 0x05F0).map (fun t => t.a) = some 0x42 := by decide
/-- 40_load8.md R102: 0xFFFF is IE. -/
theorem test_ldhAtNA :
    (after (fun s => { s with a := 0x04 }) 16 0xFFE0).map (fun t => t.ie) = some 0x04 := by decide
/-- 40_load8.md R103: IF reads ones in bits 7:5. -/
theorem test_ldhAAtC :
    (after (fun s => { s with c := 0x0F, ifl := 0b00100 }) 8 0xF2).map (fun t => t.a) = some 0xE4 := by decide
/-- 40_load8.md R104. -/
theorem test_ldhAtCA :
    (after (fun s => { s with c := 0x07, a := 0x05 }) 8 0xE2).map (fun t => (t.timer.tac, t.peek 0xFF07)) = some (5, 0xFD) := by decide
/-- 40_load8.md R105. -/
theorem test_ldAAtHlInc :
    (after (fun s => poke 0xC000 0x11 { s with h := 0xC0, l := 0x00 }) 8 0x2A).map (fun t => (t.a, t.hl)) = some (0x11, 0xC001) := by decide
/-- 40_load8.md R106. -/
theorem test_ldAAtHlDec :
    (after (fun s => poke 0xC001 0x22 { s with h := 0xC0, l := 0x01 }) 8 0x3A).map (fun t => (t.a, t.hl)) = some (0x22, 0xC000) := by decide
/-- 40_load8.md R107. -/
theorem test_ldAtHlIncA :
    (after (fun s => poke 0xC000 0x77 { s with h := 0xC0, l := 0x00, a := 0x00 }) 8 0x22).map (fun t => (t.peek 0xC000, t.hl)) = some (0x00, 0xC001) := by decide
/-- 40_load8.md R108. -/
theorem test_ldAtHlDecA :
    (after (fun s => poke 0xDFFF 0x77 { s with h := 0xDF, l := 0xFF, a := 0x00 }) 8 0x32).map (fun t => (t.peek 0xDFFF, t.hl)) = some (0x00, 0xDFFE) := by decide
/-- 41_load16.md R110. -/
theorem test_ldSpNn :
    (after (fun s => { s with sp := 0 }) 24 0xFFFE31).map (fun t => (t.sp, t.pc)) = some (0xFFFE, 0x0103) := by decide
/-- 41_load16.md R111. -/
theorem test_ldAtNnSp :
    (after (fun s => { s with sp := 0xFFF8 }) 24 0xC10008).map (fun t => (t.peek 0xC100, t.peek 0xC101)) = some (0xF8, 0xFF) := by decide
/-- 41_load16.md R112. -/
theorem test_pushBc :
    (after (fun s => { s with b := 0x12, c := 0x34 }) 8 0xC5).map (fun t => (t.peek 0xFFFD, t.peek 0xFFFC, t.sp)) = some (0x12, 0x34, 0xFFFC) := by decide
/-- 41_load16.md R113. -/
theorem test_popDe :
    (after (fun s => poke 0xFFFC 0x34 (poke 0xFFFD 0x12 { s with sp := 0xFFFC })) 8 0xD1).map (fun t => (t.d, t.e, t.sp)) = some (0x12, 0x34, 0xFFFE) := by decide
/-- 41_load16.md R113, 95_test_vectors.md property 11: F is masked. -/
theorem test_popAf :
    (after (fun s => poke 0xFFFC 0xF7 (poke 0xFFFD 0x12 { s with sp := 0xFFFC })) 8 0xF1).map (fun t => (t.a, t.f)) = some (0x12, 0xF0) := by decide
/-- 41_load16.md R114. -/
theorem test_ldSpHl :
    (after (fun s => { s with h := 0xDF, l := 0xF0 }) 8 0xF9).map (fun t => t.sp) = some 0xDFF0 := by decide
/-- 41_load16.md R115. -/
theorem test_ldHlSpPlusE :
    (after (fun s => { s with sp := 0xFFF8 }) 16 0x08F8).map (fun t => (t.hl, t.f)) = some (0x0000, 0x30) := by decide
/-- 42_alu8.md R121. -/
theorem test_addAN :
    (after (fun s => { s with a := 0x3A }) 16 0xC6C6).map (fun t => (t.a, t.f)) = some (0x00, 0xB0) := by decide
/-- 42_alu8.md R122. -/
theorem test_adcAN :
    (after (fun s => { s with a := 0xE1, f := 0x10 }) 16 0x0FCE).map (fun t => (t.a, t.f)) = some (0xF1, 0x20) := by decide
/-- 42_alu8.md R123. -/
theorem test_subN :
    (after (fun s => { s with a := 0x3E }) 16 0x3ED6).map (fun t => (t.a, t.f)) = some (0x00, 0xC0) := by decide
/-- 42_alu8.md R123. -/
theorem test_subN_borrow :
    (after (fun s => { s with a := 0x3E }) 16 0x0FD6).map (fun t => (t.a, t.f)) = some (0x2F, 0x60) := by decide
/-- 42_alu8.md R124. -/
theorem test_sbcAN :
    (after (fun s => { s with a := 0x3B, f := 0x10 }) 16 0x2ADE).map (fun t => (t.a, t.f)) = some (0x10, 0x40) := by decide
/-- 42_alu8.md R125. -/
theorem test_andN :
    (after (fun s => { s with a := 0x5A }) 16 0x3FE6).map (fun t => (t.a, t.f)) = some (0x1A, 0x20) := by decide
/-- 42_alu8.md R126. -/
theorem test_xorN :
    (after (fun s => { s with a := 0xFF }) 16 0x0FEE).map (fun t => (t.a, t.f)) = some (0xF0, 0x00) := by decide
/-- 42_alu8.md R127. -/
theorem test_orN :
    (after (fun s => { s with a := 0x5A }) 16 0x03F6).map (fun t => (t.a, t.f)) = some (0x5B, 0x00) := by decide
/-- 42_alu8.md R128. -/
theorem test_cpN :
    (after (fun s => { s with a := 0x3C }) 16 0x40FE).map (fun t => (t.a, t.f)) = some (0x3C, 0x50) := by decide
/-- 42_alu8.md R129: C is kept. -/
theorem test_incB :
    (after (fun s => { s with b := 0x0F, f := 0x10 }) 8 0x04).map (fun t => (t.b, t.f)) = some (0x10, 0x30) := by decide
/-- 42_alu8.md R130. -/
theorem test_incAtHl :
    (after (fun s => poke 0xC000 0xFF { s with h := 0xC0, l := 0x00, f := 0x00 }) 8 0x34).map (fun t => (t.peek 0xC000, t.f)) = some (0x00, 0xA0) := by decide
/-- 42_alu8.md R131. -/
theorem test_decB :
    (after (fun s => { s with b := 0x01, f := 0x00 }) 8 0x05).map (fun t => (t.b, t.f)) = some (0x00, 0xC0) := by decide
/-- 42_alu8.md R132. -/
theorem test_decAtHl :
    (after (fun s => poke 0xC000 0x10 { s with h := 0xC0, l := 0x00, f := 0x00 }) 8 0x35).map (fun t => (t.peek 0xC000, t.f)) = some (0x0F, 0x60) := by decide
/-- 42_alu8.md R133. -/
theorem test_daa :
    (after (fun s => { s with a := 0x7D, f := 0x00 }) 8 0x27).map (fun t => (t.a, t.f)) = some (0x83, 0x00) := by decide
/-- 42_alu8.md R134. -/
theorem test_cpl :
    (after (fun s => { s with a := 0x35, f := 0x00 }) 8 0x2F).map (fun t => (t.a, t.f)) = some (0xCA, 0x60) := by decide
/-- 42_alu8.md R135. -/
theorem test_scf :
    (after (fun s => { s with f := 0xE0 }) 8 0x37).map (fun t => t.f) = some 0x90 := by decide
/-- 42_alu8.md R136. -/
theorem test_ccf :
    (after (fun s => { s with f := 0x60 }) 8 0x3F).map (fun t => t.f) = some 0x10 := by decide
/-- 43_alu16.md R140. -/
theorem test_addHlBc :
    (after (fun s => { s with h := 0x8A, l := 0x23, b := 0x06, c := 0x05, f := 0x80 }) 8 0x09).map (fun t => (t.hl, t.f)) = some (0x9028, 0xA0) := by decide
/-- 43_alu16.md R140: the source is also the destination. -/
theorem test_addHlHl :
    (after (fun s => { s with h := 0x8A, l := 0x23, f := 0x00 }) 8 0x29).map (fun t => (t.hl, t.f)) = some (0x1446, 0x30) := by decide
/-- 43_alu16.md R141. -/
theorem test_incDe :
    (after (fun s => { s with d := 0x00, e := 0xFF }) 8 0x13).map (fun t => (t.d, t.e)) = some (0x01, 0x00) := by decide
/-- 43_alu16.md R142. -/
theorem test_decBc :
    (after (fun s => { s with b := 0x01, c := 0x00 }) 8 0x0B).map (fun t => (t.b, t.c)) = some (0x00, 0xFF) := by decide
/-- 43_alu16.md R143. -/
theorem test_addSpE :
    (after (fun s => { s with sp := 0xFFF8 }) 16 0x02E8).map (fun t => (t.sp, t.f)) = some (0xFFFA, 0x00) := by decide
/-- 44_rotate_shift_bit.md R150. -/
theorem test_rlca :
    (after (fun s => { s with a := 0x85 }) 8 0x07).map (fun t => (t.a, t.f)) = some (0x0B, 0x10) := by decide
/-- 44_rotate_shift_bit.md R151. -/
theorem test_rrca :
    (after (fun s => { s with a := 0x3B }) 8 0x0F).map (fun t => (t.a, t.f)) = some (0x9D, 0x10) := by decide
/-- 44_rotate_shift_bit.md R152. -/
theorem test_rla :
    (after (fun s => { s with a := 0x95, f := 0x10 }) 8 0x17).map (fun t => (t.a, t.f)) = some (0x2B, 0x10) := by decide
/-- 44_rotate_shift_bit.md R153. -/
theorem test_rra :
    (after (fun s => { s with a := 0x81, f := 0x00 }) 8 0x1F).map (fun t => (t.a, t.f)) = some (0x40, 0x10) := by decide
/-- 44_rotate_shift_bit.md R155. -/
theorem test_rlcB :
    (after (fun s => { s with b := 0x85 }) 16 0xCB00).map (fun t => (t.b, t.f)) = some (0x0B, 0x10) := by decide
/-- 44_rotate_shift_bit.md R156. -/
theorem test_rrcC :
    (after (fun s => { s with c := 0x01 }) 16 0xCB09).map (fun t => (t.c, t.f)) = some (0x80, 0x10) := by decide
/-- 44_rotate_shift_bit.md R157. -/
theorem test_rlL :
    (after (fun s => { s with l := 0x80, f := 0x00 }) 16 0xCB15).map (fun t => (t.l, t.f)) = some (0x00, 0x90) := by decide
/-- 44_rotate_shift_bit.md R158. -/
theorem test_rrA :
    (after (fun s => { s with a := 0x01, f := 0x00 }) 16 0xCB1F).map (fun t => (t.a, t.f)) = some (0x00, 0x90) := by decide
/-- 44_rotate_shift_bit.md R159. -/
theorem test_slaD :
    (after (fun s => { s with d := 0x80 }) 16 0xCB22).map (fun t => (t.d, t.f)) = some (0x00, 0x90) := by decide
/-- 44_rotate_shift_bit.md R160. -/
theorem test_sraA :
    (after (fun s => { s with a := 0x8A }) 16 0xCB2F).map (fun t => (t.a, t.f)) = some (0xC5, 0x00) := by decide
/-- 44_rotate_shift_bit.md R161. -/
theorem test_swapA :
    (after (fun s => { s with a := 0xF0 }) 16 0xCB37).map (fun t => (t.a, t.f)) = some (0x0F, 0x00) := by decide
/-- 44_rotate_shift_bit.md R162. -/
theorem test_srlA :
    (after (fun s => { s with a := 0x01 }) 16 0xCB3F).map (fun t => (t.a, t.f)) = some (0x00, 0x90) := by decide
/-- 44_rotate_shift_bit.md R163. -/
theorem test_bit7H :
    (after (fun s => { s with h := 0x80, f := 0x10 }) 16 0xCB7C).map (fun t => (t.h, t.f)) = some (0x80, 0x30) := by decide
/-- 44_rotate_shift_bit.md R164. -/
theorem test_res0A :
    (after (fun s => { s with a := 0xFF }) 16 0xCB87).map (fun t => (t.a, t.f)) = some (0xFE, 0xB0) := by decide
/-- 44_rotate_shift_bit.md R165. -/
theorem test_set3AtHl :
    (after (fun s => { s with h := 0xC0, l := 0x00 }) 16 0xCBDE).map (fun t => t.peek 0xC000) = some 0x08 := by decide
/-- 45_control.md R171. -/
theorem test_jpNn :
    (after (fun s => { s with pc := 0x0150 }) 24 0x0200C3).map (fun t => t.pc) = some 0x0200 := by decide
/-- 45_control.md R172: not taken, 12 T-cycles. -/
theorem test_jpNz_not_taken :
    (after (fun s => { s with pc := 0x0150, f := 0x80 }) 24 0x0200C2).map (fun t => (t.pc, t.timer.divider)) = some (0x0153, 12) := by decide
/-- 45_control.md R173. -/
theorem test_jpHl :
    (after (fun s => { s with h := 0x40, l := 0x00 }) 8 0xE9).map (fun t => t.pc) = some 0x4000 := by decide
/-- 45_control.md R174. -/
theorem test_jr_back :
    (after (fun s => { s with pc := 0x0150 }) 16 0xFE18).map (fun t => t.pc) = some 0x0150 := by decide
/-- 45_control.md R174. -/
theorem test_jr_wraps :
    (after (fun s => { s with pc := 0xFFFC }) 16 0x0518).map (fun t => t.pc) = some 0x0003 := by decide
/-- 45_control.md R175. -/
theorem test_jrC :
    (after (fun s => { s with pc := 0x0200, f := 0x10 }) 16 0x1038).map (fun t => t.pc) = some 0x0212 := by decide
/-- 45_control.md R176. -/
theorem test_callNn :
    (after (fun s => { s with pc := 0x0150 }) 24 0x1234CD).map (fun t => (t.peek 0xFFFD, t.peek 0xFFFC, t.sp, t.pc)) = some (0x01, 0x53, 0xFFFC, 0x1234) := by decide
/-- 45_control.md R177. -/
theorem test_callNc :
    (after (fun s => { s with pc := 0x0150, f := 0x00 }) 24 0x2000D4).map (fun t => (t.peek 0xFFFC, t.sp, t.pc)) = some (0x53, 0xFFFC, 0x2000) := by decide
/-- 45_control.md R178. -/
theorem test_ret :
    (after (fun s => poke 0xFFFC 0x53 (poke 0xFFFD 0x01 { s with sp := 0xFFFC })) 8 0xC9).map (fun t => (t.pc, t.sp)) = some (0x0153, 0xFFFE) := by decide
/-- 45_control.md R179: not taken, 8 T-cycles. -/
theorem test_retNz_not_taken :
    (after (fun s => { s with f := 0x80 }) 8 0xC0).map (fun t => (t.pc, t.sp, t.timer.divider)) = some (0x0101, 0xFFFE, 8) := by decide
/-- 45_control.md R180. -/
theorem test_reti :
    (after (fun s => poke 0xFFFC 0x53 (poke 0xFFFD 0x01 { s with sp := 0xFFFC })) 8 0xD9).map (fun t => (t.pc, t.sp, t.ime)) = some (0x0153, 0xFFFE, true) := by decide
/-- 45_control.md R181. -/
theorem test_rst28 :
    (after (fun s => { s with pc := 0x014F }) 8 0xEF).map (fun t => (t.peek 0xFFFD, t.peek 0xFFFC, t.pc)) = some (0x01, 0x50, 0x0028) := by decide
/-- 46_system.md R185: nothing else changes. -/
theorem test_nop :
    (after (fun s => s) 8 0x00).map (fun t => t) = some { State.reset with pc := 0x0101, timer := { State.reset.timer with divider := 4 } } := by decide
/-- 46_system.md R186. -/
theorem test_halt_bug :
    (after (fun s => { s with pc := 0x01FF, ie := 0x04, ifl := 0b00100 }) 8 0x76).map (fun t => (t.runState, t.haltBug, t.pc)) = some (.running, true, 0x0200) := by decide
/-- 46_system.md R186: nothing is pending. -/
theorem test_halt :
    (after (fun s => s) 8 0x76).map (fun t => (t.runState, t.haltBug)) = some (.halted, false) := by decide
/-- 46_system.md R188: the divider is cleared, and 4 T-cycles pass. -/
theorem test_stop :
    (after (fun s => { s with pc := 0x0300 }) 16 0x0010).map (fun t => (t.pc, t.runState, t.timer.divider)) = some (0x0302, .stopped, 4) := by decide
/-- 46_system.md R189. -/
theorem test_di :
    (after (fun s => { s with ime := true }) 8 0xF3).map (fun t => (t.ime, t.eiPending)) = some (false, false) := by decide
/-- 46_system.md R190. -/
theorem test_ei :
    (after (fun s => s) 8 0xFB).map (fun t => (t.ime, t.eiPending)) = some (false, true) := by decide
/-- 46_system.md R192, 95_test_vectors.md S3: PC stays at the opcode, 0 T-cycles. -/
theorem test_unassigned :
    (after (fun s => s) 8 0xD3).map (fun t => (t.pc, t.fault, t.timer.divider)) = some (0x0100, some (.illegalOpcode 0x0100 0xD3), 0) := by decide

/-! ## Witnesses: a state and operands that meet the hypotheses of each statement, clause by clause -/

theorem witness_DecodeOfEncode : (Instr.ldAtNnSp 0xC100).wellFormed = true := by decide

theorem witness_EncodeOfDecode : decode [0x08, 0x00, 0xC1, 0x76] = .instr (.ldAtNnSp 0xC100) [0x76] := by decide

/-- Both sides of the rule at its boundary: all the operand bytes are there, or one is missing. -/
theorem witness_DecodeRejectsOnlyShort :
    operandCount 0xCD ≤ [(0x34 : Byte), 0x12].length ∧ decode [0xCD, 0x34, 0x12] = .instr (.callNn 0x1234) [] ∧
      [(0x34 : Byte)].length < operandCount 0xCD ∧ decode [0xCD, 0x34] = .rejected (.missingOperand 0xCD) := by decide

/-- Other parameters than the defaults: a CGB that starts elsewhere, with ones in the masked bits of F and of the HDMA addresses
and another IF. -/
def otherReset : State :=
  State.resetWith (Config.defaults .cgb)
    (fun v => { ResetState.defaults v with f := 0x8F, pc := 0x0150, ifl := 0b10100, tima := 0x33, tac := 5, dma := 0xC1 })
    0xABCC 0x801F 0x1FFF Bus.plain

theorem witness_ResetValues :
    (ResetState.defaults .cgb).runState = .running ∧ (ResetState.defaults .cgb).ime = false ∧
      (ResetState.defaults .cgb).tac = 0 ∧ (ResetState.defaults .cgb).ifl = 0b00001 ∧ otherReset.f = 0x80 ∧ otherReset.pc = 0x0150 ∧
      otherReset.peek 0xFF0F = 0xF4 ∧ otherReset.timer.tima = 0x33 ∧ otherReset.peek 0xFF07 = 0xFD ∧ otherReset.peek 0xFF46 = 0xC1 ∧
      otherReset.hdma.src = 0x8010 ∧ otherReset.hdma.dst = 0x1FF0 := by decide

theorem witness_ResetMeetsInvariant : Bus.plain.mem.wf = true ∧ Memory.wf [(0x0100, 0x76), (0xFFFF, 0x01)] = true := by decide

theorem witness_StepKeepsInvariant : State.reset.Inv ∧ ∃ t, step State.reset = .next t :=
  ⟨by decide, _, rfl⟩

/-- The call at 0x0150 of 45_control.md R176. -/
def atCall : State := State.withFetchWord { State.reset with pc := 0x0150 } 24 0x1234CD

theorem witness_StepRunsDecodedInstruction :
    atCall.hostPhase = atCall ∧ atCall.AtInstruction ∧ atCall.haltBug = false ∧ (Instr.callNn 0x1234).wellFormed = true ∧
      encode (.callNn 0x1234) = [0xCD, 0x34, 0x12] ∧ atCall.BytesAt atCall.pc [0xCD, 0x34, 0x12] := by
  refine ⟨by decide, by decide, by decide, by decide, by decide, ?_⟩
  simp only [State.BytesAt]
  decide

/-- `LD A,n` with the halt bug: its own opcode byte is its operand. -/
def atHaltBug : State := { State.withFetchWord State.reset 16 0x423E with haltBug := true }

theorem witness_HaltBugFetch :
    atHaltBug.hostPhase = atHaltBug ∧ atHaltBug.AtInstruction ∧ atHaltBug.haltBug = true ∧ (Instr.ldAN 0x3E).wellFormed = true ∧
      encode (.ldAN 0x3E) = [0x3E, 0x3E] ∧ atHaltBug.readByte atHaltBug.pc = 0x3E ∧
      (atHaltBug.afterRead atHaltBug.pc).BytesAt atHaltBug.pc [0x3E] := by
  refine ⟨by decide, by decide, by decide, by decide, by decide, by decide, ?_⟩
  simp only [State.BytesAt]
  decide

/-- What `answers f s` says: the step from `s` answers a next state of which `f` holds. -/
def answers (f : State → Bool) (s : State) : Bool :=
  match step s with
  | .next t => f t
  | _ => false

/-- Both ways IME rises: NOP with the enable pending, and RETI without. -/
theorem witness_ImeRisesOnlyByEiOrReti :
    answers (fun t => t.ime) { State.reset with eiPending := true } = true ∧ State.reset.ime = false ∧
      answers (fun t => t.ime) (State.reset.withFetchWord 8 0xD9) = true := by decide

/-- EI, NOP after EI, EI after EI, and DI after EI. -/
theorem witness_EnableFollowsNextInstruction :
    (State.reset.withFetchWord 8 0xFB).hostPhase.AtInstruction ∧ (State.reset.withFetchWord 8 0xFB).eiPending = false ∧
      (State.reset.withFetchWord 8 0xFB).readByte 0x0100 = 0xFB ∧
      answers (fun t => t.fault == none && t.eiPending && !t.ime) (State.reset.withFetchWord 8 0xFB) = true ∧
      State.AtInstruction { State.reset with eiPending := true } ∧
      answers (fun t => t.fault == none && t.ime && !t.eiPending) { State.reset with eiPending := true } = true ∧
      answers (fun t => t.fault == none && t.ime && !t.eiPending)
        { State.reset.withFetchWord 8 0xFB with eiPending := true } = true ∧
      answers (fun t => t.fault == none && !t.ime && !t.eiPending)
        { State.reset.withFetchWord 8 0xF3 with eiPending := true } = true := by decide

theorem witness_FaultOnlyFromUnassignedOpcode :
    (State.reset.withFetchWord 8 0xFD).AtInstruction ∧
      (State.reset.withFetchWord 8 0xFD).readByte (State.reset.withFetchWord 8 0xFD).pc = unassignedByte .fd ∧
      (State.reset.withFetchWord 8 0xFD).fault = none ∧
      answers (fun t => t.fault == some (.illegalOpcode 0x0100 0xFD)) (State.reset.withFetchWord 8 0xFD) = true := by decide

theorem witness_FaultedMachineStays :
    State.fault { State.reset with fault := some (.badInterruptBit 5) } ≠ none := by decide

/-- A machine with VBlank and the timer interrupt pending and enabled, its stack in plain memory. -/
def eligibleState : State := { State.reset with ime := true, ie := 0x05, ifl := 0b00101, sp := 0xDFFE, pc := 0x0153 }

theorem witness_DispatchRunsToHandler :
    eligibleState.fault = none ∧ eligibleState.dispatchStage = .idle ∧ eligibleState.runState = .running ∧
      eligibleState.eligible = true ∧ (0x0153 : Word) = (if eligibleState.haltBug then eligibleState.pc - 1 else eligibleState.pc) ∧
      eligibleState.PlainCell (eligibleState.sp - 1) ∧ eligibleState.PlainCell (eligibleState.sp - 2) := by decide

/-- The halt-bug form: the return address is that of the HALT. -/
theorem witness_DispatchRunsToHandler_halt_bug :
    State.eligible { eligibleState with haltBug := true } = true ∧
      (0x0152 : Word) = (if State.haltBug { eligibleState with haltBug := true } then eligibleState.pc - 1 else eligibleState.pc) := by
  decide

/-- The form without a source: with SP 0x0000 the high byte of PC goes to IE, and nothing is pending at M4. -/
theorem witness_DispatchRunsToHandler_cancelled :
    lowestPending (State.memWrite 0xFFFF (hiByte 0x0053) { eligibleState with sp := 0xFFFF }).pending = none := by decide

theorem witness_DispatchIsUninterruptible : ∀ st ∈ [DispatchStage.m1, .m2, .m3, .m4, .m5],
    (State.hostPhase { eligibleState with dispatchStage := st }).fault = none ∧
      State.dispatchStage { eligibleState with dispatchStage := st } ≠ .idle := by
  simp only [List.mem_cons, List.not_mem_nil, or_false]
  rintro st (rfl | rfl | rfl | rfl | rfl) <;> decide

/-- Each priority, and none; and the M-cycle that selects. -/
theorem witness_InterruptPriority :
    lowestPending 0b11111 = some .vblank ∧ lowestPending 0b11110 = some .lcdStat ∧ lowestPending 0b11100 = some .timer ∧
      lowestPending 0b11000 = some .serial ∧ lowestPending 0b10000 = some .joypad ∧ lowestPending 0 = none ∧
      State.dispatchStage { eligibleState with dispatchStage := .m4 } = .m4 := by decide

theorem witness_HaltedAndStoppedSteps :
    State.fault { State.reset with runState := .halted } = none ∧
      State.dispatchStage { State.reset with runState := .halted } = .idle ∧
      State.runState { State.reset with runState := .stopped } = .stopped ∧
      State.hostScript { State.reset with runState := .stopped } = [] := by decide

/-- A bit that is set, the highest bit, and the first number that names none. -/
theorem witness_RequestInterrupt :
    (4 : Nat) ≤ 4 ∧ State.reset.ifl.getLsbD 0 = true ∧ (0 : Nat) ≤ 4 ∧ (5 : Nat) ≤ 5 ∧
      (State.reset.requestInterrupt 4).ifl = 0b10001 ∧
      (State.reset.requestInterrupt 5).fault = some (.badInterruptBit 5) := by decide

/-! ### Timer: the states of 95_test_vectors.md properties 1 and 2 -/

/-- Property 2 just before tick 16. -/
def beforeOverflow : Timer :=
  { divider := 0x000F, tima := 0xFF, tma := 0xAB, tac := 5, tstate := .normal, countdown := 0, reloadPending := false }

theorem witness_TimerTick :
    beforeOverflow.tstate ≠ .overflowDelay ∧ beforeOverflow.aboutToFall = true ∧ beforeOverflow.tima = 0xFF ∧
      Timer.aboutToFall { beforeOverflow with divider := 0x000E } = false ∧
      Timer.aboutToFall { beforeOverflow with tima := 0x10 } = true ∧ (0x10 : Byte) ≠ 0xFF ∧
      (beforeOverflow.after 1).tstate = .overflowDelay ∧ 2 ≤ (beforeOverflow.after 1).countdown := by decide

/-- The ticks that end a countdown, and, with a divider that falls in the same tick, what the value just loaded becomes. -/
theorem witness_TimerTick_reload :
    (beforeOverflow.after 4).tstate = .overflowDelay ∧ (beforeOverflow.after 4).countdown = 1 ∧
      (beforeOverflow.after 4).aboutToFall = false ∧
      Timer.aboutToFall { beforeOverflow.after 4 with divider := 0x000F } = true ∧ (beforeOverflow.after 4).tma ≠ 0xFF ∧
      (Timer.tick { beforeOverflow.after 4 with divider := 0x000F }).1.tima = 0xAC ∧
      Timer.tma { beforeOverflow.after 4 with divider := 0x000F, tma := 0xFF } = 0xFF ∧
      (beforeOverflow.after 5).tstate = .reloadActive ∧ 2 ≤ (beforeOverflow.after 5).countdown ∧
      (beforeOverflow.after 8).tstate = .reloadActive ∧ (beforeOverflow.after 8).countdown = 1 ∧
      ¬ ((beforeOverflow.after 8).aboutToFall = true ∧ (beforeOverflow.after 8).tima = 0xFF) ∧
      State.reset.timer.tstate = .normal ∧ ¬ (State.reset.timer.aboutToFall = true ∧ State.reset.timer.tima = 0xFF) := by decide

/-- The tick sequence, and both kinds of T-cycle: without a request, and with one. -/
theorem witness_TimerReloadSequence :
    beforeOverflow.tstate = .normal ∧ beforeOverflow.countdown = 0 ∧ beforeOverflow.reloadPending = false ∧
      beforeOverflow.tima = 0xFF ∧ beforeOverflow.aboutToFall = true ∧ State.reset.fault = none ∧
      State.reset.timer.tick.2 = false ∧ State.fault { State.reset with timer := beforeOverflow.after 4 } = none ∧
      (State.timer { State.reset with timer := beforeOverflow.after 4 }).tick.2 = true := by decide

/-- Property 2, ticks 19 and 20: cycle 4 leaves TIMA at 0, cycle 5 loads TMA. -/
theorem test_timer_reload :
    (beforeOverflow.after 4).tima = 0x00 ∧ (beforeOverflow.after 5).tima = 0xAB ∧ (beforeOverflow.after 5).tstate = .reloadActive ∧
      (beforeOverflow.after 9).tstate = .normal := by decide

/-- Property 1: 4096 ticks at select 2 count 64; and a disabled timer. -/
theorem witness_TimerCountsAtItsRate :
    State.reset.fault = none ∧ Timer.tstate { beforeOverflow with divider := 0, tima := 0, tac := 6 } = .normal ∧
      (64 : Nat) = (if (6 : BitVec 3).toNat % 4 = 0 then 1024 else if (6 : BitVec 3).toNat % 4 = 1 then 16
        else if (6 : BitVec 3).toNat % 4 = 2 then 64 else 256) ∧
      (6 : BitVec 3).getLsbD 2 = true ∧ 0 + ((0 + 4096) / 64 - 0 / 64) ≤ 255 ∧ (2 : BitVec 3).getLsbD 2 = false := by decide

/-- Property 5 (the selected bit is 1, or 0), the three states a TIMA and a TMA write meet, and a TAC write that lowers the
input (0x00) or does not (0x05). -/
theorem witness_TimerRegisters :
    ((5 : BitVec 3).getLsbD 2 && (0x0008 : BitVec 16).getLsbD (timerSelect 5)) = true ∧
      ((5 : BitVec 3).getLsbD 2 && (0x0007 : BitVec 16).getLsbD (timerSelect 5)) = false ∧
      beforeOverflow.tstate = .normal ∧ (beforeOverflow.after 1).tstate = .overflowDelay ∧
      (beforeOverflow.after 5).tstate = .reloadActive ∧
      (0x00 : Byte).extractLsb' 0 3 = (0 : BitVec 3) ∧
      (!((0 : BitVec 3).getLsbD 2 && (0x0008 : BitVec 16).getLsbD (timerSelect 0))) = true ∧
      (!((5 : BitVec 3).getLsbD 2 && (0x0008 : BitVec 16).getLsbD (timerSelect 5))) = false := by decide

/-! ### OAM-DMA: 95_test_vectors.md property 6 -/

theorem witness_OamDmaLockWindow : State.reset.fault = none := by decide

/-- The window at its ends: unlocked through tick 7, locked from tick 8. -/
theorem test_dma_lock :
    (State.tCycles 7 (State.reset.memWrite 0xFF46 0xC0)).busLocked 0x8000 = false ∧
      (State.tCycles 8 (State.reset.memWrite 0xFF46 0xC0)).busLocked 0x8000 = true ∧
      (State.tCycles 8 (State.reset.memWrite 0xFF46 0xC0)).busLocked 0xFF00 = false := by decide

/-- With no region listed, every address is plain memory (log 5). -/
theorem reset_busKind (addr : Word) : State.reset.busKind addr = .plain := rfl

/-- The first and the last byte of a page of plain memory. -/
theorem witness_OamDmaCopiesPage : ∀ i ∈ [0, 159],
    State.reset.fault = none ∧ State.reset.busKind (0xFE00 + BitVec.ofNat 16 i) = .plain ∧
      State.reset.coreReg (BitVec.ofNat 16 ((0xC0 : Byte).toNat * 256 + i)) = none ∧
      State.reset.busKind (BitVec.ofNat 16 ((0xC0 : Byte).toNat * 256 + i)) ≠ .external := by
  simp only [List.mem_cons, List.not_mem_nil, or_false]
  rintro i (rfl | rfl) <;> decide

/-- The other kinds of source: in page 0xFF byte 4 is DIV and byte 159 is a bus address. -/
theorem witness_OamDmaCopiesPage_core_register :
    State.reset.coreReg (BitVec.ofNat 16 ((0xFF : Byte).toNat * 256 + 4)) = some .div ∧
      State.reset.coreReg (BitVec.ofNat 16 ((0xFF : Byte).toNat * 256 + 159)) = none := by decide

/-- A machine whose bus is locked, running below 0xFF00 with its stack there. -/
def lockedState : State := { State.reset with dma := { State.reset.dma with active := true }, sp := 0xDFFE }

theorem witness_LockedFetchRunsRst38 :
    lockedState.AtInstruction ∧ lockedState.haltBug = false ∧ lockedState.busLocked lockedState.pc = true ∧
      lockedState.busLocked (lockedState.sp - 1) = true ∧ lockedState.busLocked (lockedState.sp - 2) = true ∧
      lockedState.eiPending = false := by decide

/-! ### HDMA: 95_test_vectors.md property 8 -/

/-- The start of property 8. -/
def cgbState : State := State.resetWith (Config.defaults .cgb) ResetState.defaults 0 0xC000 0x0000 Bus.plain

/-- Property 8 after the first write. -/
def hblankState : State := cgbState.memWrite 0xFF55 0x83

theorem witness_HdmaRegisters : State.reset.cfg.variant = .dmg ∧ cgbState.cfg.variant = .cgb := by decide

theorem witness_Hdma5Write :
    hblankState.cfg.variant = .cgb ∧ hblankState.hdma.active = true ∧ hblankState.hdma.mode = .hblank ∧
      (0x00 : Byte).getLsbD 7 = false ∧ (0x85 : Byte).getLsbD 7 = true ∧
      ¬ (cgbState.hdma.active = true ∧ cgbState.hdma.mode = .hblank) ∧ cgbState.hdma.dst.extractLsb' 0 4 = 0#4 := by decide

/-- Property 8: four blocks asked for; stopped at once, the count stays with bit 7 set (60_exceptions.md R266). -/
theorem test_hdma5_status :
    hblankState.readByte 0xFF55 = 0x03 ∧ (hblankState.memWrite 0xFF55 0x00).readByte 0xFF55 = 0x83 := by decide

/-- Property 8: an HBlank block takes one off the count. -/
theorem test_hblank_block : hblankState.hblankBlock.hdma.remaining = 3 ∧ hblankState.hblankBlock.hdma.dst = 0x0010 := by decide +kernel

/-- The transfer of two blocks, its last byte, and, from plain memory, a source that no earlier byte has gone to. -/
theorem witness_GeneralHdmaCopiesBlocks :
    cgbState.cfg.variant = .cgb ∧ ¬ (cgbState.hdma.active = true ∧ cgbState.hdma.mode = .hblank) ∧
      (0x01 : Byte).getLsbD 7 = false ∧ (32 : Nat) = 16 * ((0x01 : Byte).toNat + 1) ∧ cgbState.hdma.dst.extractLsb' 0 4 = 0#4 ∧
      (∀ j < 32, cgbState.busKind (cgbState.hdmaTo j) = .plain) ∧ cgbState.coreReg (cgbState.hdmaFrom 31) = none ∧
      cgbState.busKind (cgbState.hdmaFrom 31) ≠ .external ∧ (∀ i < 31, cgbState.hdmaFrom 31 ≠ cgbState.hdmaTo i) ∧
      (∀ j < 32, (0xA000 : Word) ≠ cgbState.hdmaTo j) := by
  refine ⟨by decide, by decide, by decide, by decide, by decide, fun j _ => rfl, by decide, by decide, ?_, ?_⟩ <;> decide

/-- `HdmaByte`'s other sources: VRAM, where byte 16 comes from where byte 0 went; DIV and HDMA5 among the bytes from 0xFF00;
and an external region. -/
theorem witness_HdmaByte :
    (State.resetWith (Config.defaults .cgb) ResetState.defaults 0 0x8000 0x0010 Bus.plain).hdmaFrom 16 =
        (State.resetWith (Config.defaults .cgb) ResetState.defaults 0 0x8000 0x0010 Bus.plain).hdmaTo 0 ∧
      (∃ s, s = State.resetWith (Config.defaults .cgb) ResetState.defaults 0 0xFF00 0 Bus.plain ∧
        s.coreReg (s.hdmaFrom 4) = some .div ∧ s.coreReg (s.hdmaFrom 0x55) = some .hdma5) ∧
      (∃ s, s = State.resetWith (Config.defaults .cgb) ResetState.defaults 0 0xA000 0
          { Bus.plain with map := [⟨0xA000, 0x2000, .external⟩] } ∧
        s.coreReg (s.hdmaFrom 0) = none ∧ s.busKind (s.hdmaFrom 0) = .external) :=
  ⟨by decide, ⟨_, rfl, by decide, by decide⟩, ⟨_, rfl, by decide, by decide⟩⟩

theorem witness_HblankBlock :
    hblankState.cfg.variant = .cgb ∧ ¬ (cgbState.hdma.active = true ∧ cgbState.hdma.mode = .hblank) ∧
      hblankState.hdma.active = true ∧ hblankState.hdma.mode = .hblank ∧ hblankState.hdma.dst.extractLsb' 0 4 = 0#4 ∧
      (∀ j < 16, hblankState.busKind (hblankState.hdmaTo j) = .plain) ∧ (∀ j < 16, (0xA000 : Word) ≠ hblankState.hdmaTo j) :=
  ⟨by decide, by decide, by decide, by decide, by decide,
    fun _ _ => (State.memWrite_writesOnly 0xFF55 0x83 cgbState).busKind _, by decide⟩

/-! ### Memory -/

/-- A bus with an unmapped and an external region. -/
def regionState : State :=
  { State.reset with bus := { State.reset.bus with map := [⟨0xA000, 0x2000, .unmapped⟩, ⟨0xFF10, 0x10, .external⟩] } }

theorem witness_ProcessorRead :
    lockedState.busLocked 0xC000 = true ∧ regionState.busLocked 0xC000 = false ∧ regionState.coreReg 0xC000 = none ∧
      regionState.busKind 0xC000 = .plain ∧ regionState.busKind 0xBFFF = .unmapped ∧ regionState.coreReg 0xBFFF = none ∧
      regionState.busKind 0xFF1F = .external ∧ regionState.coreReg 0xFF1F = none ∧ regionState.busLocked 0xFF1F = false ∧
      regionState.coreReg 0xFF04 = some .div ∧ 0xFF00 ≤ (0xFF00 : Word).toNat := by decide

theorem witness_ProcessorWrite :
    lockedState.busLocked 0xFEFF = true ∧ regionState.coreReg 0xA000 = none ∧ regionState.busKind 0xA000 = .unmapped ∧
      regionState.coreReg 0xFF10 = none ∧ regionState.busKind 0xFF10 = .external ∧ regionState.PlainCell 0xC000 := by decide

/-! ### Instructions -/

theorem witness_StoreSp : State.reset.PlainCell 0xC100 ∧ State.reset.PlainCell (0xC100 + 1) := by decide

theorem witness_PushPair : State.reset.PlainCell (State.reset.sp - 1) ∧ State.reset.PlainCell (State.reset.sp - 2) := by decide

theorem witness_PopPair : (StackReg.bc ≠ .af) ∧ (StackReg.af = .af) := by decide

theorem witness_LoadRegister : (Instr.ofLdRegReg .b .b) = .ldBB ∧ (Instr.ofLdRegReg .c .b) = .ldCB := by decide

/-- The frames' premises on a store: an address that is no core register, and one that is. -/
theorem witness_StoreToMemory :
    (∀ addr ∈ [(0xC010 : Word)], State.reset.coreReg addr = none) ∧ State.reset.PlainCell 0xC010 ∧
      (State.reset.coreReg 0xC011 ≠ none ∨ State.reset.busKind 0xC011 ≠ .external) ∧
      State.reset.coreReg 0xFF05 ≠ some .hdma5 := by
  refine ⟨fun a h => ?_, by decide, by decide, by decide⟩
  rw [List.mem_singleton.mp h]
  decide

/-- DAA after an addition and after a subtraction. -/
theorem witness_DecimalAdjust :
    State.flagN { State.reset with f := 0x00 } = false ∧ State.flagN { State.reset with f := 0x40 } = true := by decide

theorem witness_BcdArithmetic : (45 : Nat) < 100 ∧ (38 : Nat) < 100 ∧ State.a { State.reset with a := 0x45 } = bcd 45 := by decide

theorem witness_RotatesAndShifts : (Instr.rrca, RotOp.rrc) ∈ [(Instr.rlca, RotOp.rlc), (.rrca, .rrc), (.rla, .rl), (.rra, .rr)] := by
  simp

/-- Each condition holds somewhere and fails somewhere. -/
theorem witness_Calls :
    condHolds .z { State.reset with f := 0x80 } = true ∧ condHolds .z { State.reset with f := 0x00 } = false ∧
      condHolds .nz { State.reset with f := 0x00 } = true ∧ condHolds .nz { State.reset with f := 0x80 } = false ∧
      condHolds .c { State.reset with f := 0x10 } = true ∧ condHolds .c { State.reset with f := 0x00 } = false ∧
      condHolds .nc { State.reset with f := 0x00 } = true ∧ condHolds .nc { State.reset with f := 0x10 } = false := by decide

theorem witness_Returns :
    (0x0153 : Word) = (let s := poke 0xFFFC 0x53 (poke 0xFFFD 0x01 { State.reset with sp := 0xFFFC })
      mkWord ((s.afterRead s.sp).readByte (s.sp + 1)) (s.readByte s.sp)) := by decide

theorem witness_CallThenReturn :
    eligibleState.PlainCell (eligibleState.sp - 1) ∧ eligibleState.PlainCell (eligibleState.sp - 2) := by decide

/-- HALT with nothing pending, with an interrupt pending and IME 0 or 1; STOP with its parameter on and off. -/
theorem witness_SystemInstructions :
    State.reset.ie.extractLsb' 0 5 &&& State.reset.ifl = 0 ∧ eligibleState.ie.extractLsb' 0 5 &&& eligibleState.ifl ≠ 0 ∧
      eligibleState.ime = true ∧ State.ime { eligibleState with ime := false } = false ∧
      State.reset.cfg.stopResetsDivider = true ∧
      Config.stopResetsDivider { State.reset.cfg with stopResetsDivider := false } = false := by decide

theorem witness_CycleCosts : State.reset.cfg.costs = [] := by decide

end Sys2Proof.Tests
end

