-- ==== Sys2Proof/Proofs/State.lean ====
section
/-! PROOFS. The family of 10_state.md: what a Processor step can do, said once; that every step keeps the invariant; when IME
rises; and the register pairs. -/
namespace Sys2Proof.Machine

/-! ## What a Processor step can do -/

/-- A Processor step that answers `n` T-cycles and the state `t`, case by case with the guards of 60_exceptions.md R201. -/
inductive ProcMove (s : State) : Nat → State → Prop
  | faulted : s.fault ≠ none → ProcMove s 0 s
  | dispatch : s.fault = none → s.dispatchStage ≠ .idle → ProcMove s 4 s.dispatchCycle
  | halted : s.fault = none → s.dispatchStage = .idle → s.runState = .halted → ProcMove s 4 s.haltedStep
  | stopped : s.fault = none → s.dispatchStage = .idle → s.runState = .stopped → ProcMove s 0 s.stoppedStep
  | dispatchStart : s.fault = none → s.dispatchStage = .idle → s.runState = .running → s.eligible = true →
      ProcMove s 4 (State.dispatchCycle { s with dispatchStage := .m1 })
  | faultingInstr (b1 b2 : Byte) (u : State) : s.AtInstruction →
      Effect s.fetchInstr.2 (decodeOp (s.readByte s.pc) b1 b2) u → u.fault ≠ none → ProcMove s 0 u
  | instr (b1 b2 : Byte) (u : State) : s.AtInstruction →
      Effect s.fetchInstr.2 (decodeOp (s.readByte s.pc) b1 b2) u → u.fault = none →
      ProcMove s (instrCost s.cfg (decodeOp (s.readByte s.pc) b1 b2) (s.taken (decodeOp (s.readByte s.pc) b1 b2)))
        (u.finishInstr s.eiPending)

/-- The instruction case of a Processor step. -/
theorem State.instrStep_move {s t : State} {n : Nat} (hs : s.AtInstruction) (h : s.instrStep = .next (n, t)) :
    ProcMove s n t := by
  obtain ⟨b1, b2, u, -, he, hstep⟩ := s.instrStep_next
  rw [hstep] at h
  cases hu : u.fault with
  | none =>
    simp only [hu, Option.isSome_none, Bool.false_eq_true, if_false, Host.Outcome.next.injEq, Prod.mk.injEq] at h
    obtain ⟨rfl, rfl⟩ := h
    exact .instr b1 b2 u hs he hu
  | some k =>
    simp only [hu, Option.isSome_some, if_true, Host.Outcome.next.injEq, Prod.mk.injEq] at h
    obtain ⟨rfl, rfl⟩ := h
    exact .faultingInstr b1 b2 u hs he (by simp [hu])

theorem procStep_move {s t : State} {n : Nat} (h : procStep s = .next (n, t)) : ProcMove s n t := by
  by_cases hf : s.fault = none
  · by_cases hd : s.dispatchStage = .idle
    · cases hr : s.runState with
      | halted =>
        obtain ⟨rfl, rfl⟩ : 4 = n ∧ s.haltedStep = t := by simpa [procStep, hf, hd, hr] using h
        exact .halted hf hd hr
      | stopped =>
        obtain ⟨rfl, rfl⟩ : 0 = n ∧ s.stoppedStep = t := by simpa [procStep, hf, hd, hr] using h
        exact .stopped hf hd hr
      | running =>
        cases hg : s.eligible with
        | true =>
          rw [procStep_dispatchStart hf hd hr hg] at h
          cases h
          exact .dispatchStart hf hd hr hg
        | false =>
          have hs : s.AtInstruction := ⟨hf, hd, hr, hg⟩
          rw [procStep_instruction hs] at h
          exact s.instrStep_move hs h
    · rw [procStep_dispatch hf hd] at h
      cases h
      exact .dispatch hf hd
  · obtain ⟨rfl, rfl⟩ : 0 = n ∧ s = t := by
      simpa [procStep, Option.isSome_iff_ne_none.mpr hf] using h
    exact .faulted hf

/-- A step of the machine is one Processor move after the host's actions, and then its T-cycles (60_exceptions.md R275). -/
theorem step_move {s t : State} (h : step s = .next t) : ∃ n u, ProcMove s.hostPhase n u ∧ t = u.tCycles n := by
  unfold step at h
  split at h
  · rename_i n u hp
    cases h
    exact ⟨n, u, procStep_move hp, rfl⟩
  · cases h
  · cases h

/-! ## The invariant -/

/-- The control part of the invariant depends on F's low nibble and the control state only. -/
theorem State.ControlInv.of_controlKept {s t : State} (hk : ControlKept s t) (hf : t.f &&& 0x0F = 0) (hs : s.ControlInv) :
    t.ControlInv := by
  obtain ⟨hrun, hime, -, hbug, hstage, hbit, -⟩ := hk
  obtain ⟨-, h2, h3, h4⟩ := hs
  unfold State.ControlInv
  rw [hrun, hime, hbug, hstage, hbit]
  exact ⟨hf, h2, h3, h4⟩

/-- Outside a dispatch, with no source chosen and no halt bug, only F's low nibble is left to keep. -/
theorem State.ControlInv.of_idle {s : State} (hf : s.f &&& 0x0F = 0) (hd : s.dispatchStage = .idle)
    (hbit : s.dispatchBit = none) (hbug : s.haltBug = false) : s.ControlInv :=
  ⟨hf, by simp [hbit], by simp [hd], by simp [hbug]⟩

/-- Between dispatches no source is chosen (60_exceptions.md R221). -/
theorem State.ControlInv.dispatchBit_of_idle {s : State} (hs : s.ControlInv) (hd : s.dispatchStage = .idle) :
    s.dispatchBit = none := by
  by_contra hbit
  simpa [hd] using hs.2.1 hbit

theorem State.Inv.of_ordinary {s t : State} (h : Ordinary s t) (hs : s.Inv) : t.Inv :=
  ⟨.of_controlKept h.control (h.flags hs.1.1) hs.1, h.peripherals hs.2⟩

theorem State.hostPhase_inv {s : State} (hs : s.Inv) : s.hostPhase.Inv :=
  ⟨.of_hostOnly s.hostPhase_hostOnly hs.1, s.hostPhase_peripheralInv hs.2⟩

theorem State.tCycles_inv (n : Nat) {s : State} (hs : s.Inv) : (s.tCycles n).Inv :=
  ⟨.of_writesOnly (s.tCycles_writesOnly n) hs.1, s.tCycles_peripheralInv n hs.2⟩

/-- Past the first M-cycle of a dispatch: RUNNING with IME set, no halt bug, and a source chosen before M5 only. -/
theorem State.ControlInv.of_dispatching {s : State} (hf : s.f &&& 0x0F = 0) (hr : s.runState = .running) (hime : s.ime = true)
    (hbug : s.haltBug = false) (hbit : s.dispatchBit = none ∨ s.dispatchStage = .m5) : s.ControlInv :=
  ⟨hf, hbit.resolve_left, fun _ => ⟨hr, hime⟩, by simp [hbug]⟩

/-- Every M-cycle of a dispatch keeps the invariant (60_exceptions.md R221). -/
theorem State.dispatchCycle_inv {s : State} (hs : s.Inv) : s.dispatchCycle.Inv := by
  by_cases hidle : s.dispatchStage = .idle
  · rwa [show s.dispatchCycle = s by simp [State.dispatchCycle, hidle]]
  obtain ⟨⟨hf, hbit, hrun, hbug⟩, hp⟩ := hs
  obtain ⟨hr, hime⟩ := hrun hidle
  have unchosen (h : s.dispatchStage ≠ .m5) : s.dispatchBit = none := by_contra fun hb => h (hbit hb)
  have noBug (h : s.dispatchStage ≠ .m1) : s.haltBug = false := by simp_all
  cases hd : s.dispatchStage with
  | idle => exact absurd hd hidle
  | m1 =>
    rw [State.dispatchCycle_m1 hd]
    exact ⟨.of_dispatching hf hr hime rfl (.inl (unchosen (by simp [hd]))), hp⟩
  | m2 =>
    rw [State.dispatchCycle_m2 hd]
    exact ⟨.of_dispatching hf hr hime (noBug (by simp [hd])) (.inl (unchosen (by simp [hd]))), hp⟩
  | m3 =>
    rw [State.dispatchCycle_m3 hd]
    refine ⟨.of_dispatching (by simpa using hf) ?_ ?_ ?_ (.inl ?_), State.memWrite_peripheralInv _ _ { s with sp := s.sp - 1 } hp⟩
    all_goals simp [hr, hime, noBug, unchosen, hd]
  | m4 =>
    rw [State.dispatchCycle_m4 hd]
    refine ⟨.of_dispatching (by simpa using hf) ?_ ?_ ?_ (.inr rfl),
      State.memWrite_peripheralInv _ _ { s with sp := s.sp - 1, dispatchBit := lowestPending s.pending } hp⟩
    all_goals simp [hr, hime, noBug, hd]
  | m5 =>
    rw [State.dispatchCycle_m5 hd]
    exact ⟨.of_idle hf rfl rfl (noBug (by simp [hd])), hp⟩

/-- A dispatch starts in RUNNING with IME set (60_exceptions.md R220), so its first M-cycle meets the invariant. -/
theorem State.dispatchStart_inv {s : State} (hs : s.Inv) (hd : s.dispatchStage = .idle) (hr : s.runState = .running)
    (hg : s.eligible = true) : State.Inv { s with dispatchStage := .m1 } := by
  have hime : s.ime = true := by
    simp only [State.eligible, Bool.and_eq_true] at hg
    exact hg.1
  have hbit := State.ControlInv.dispatchBit_of_idle hs.1 hd
  exact ⟨⟨hs.1.1, by simp [hbit], fun _ => ⟨hr, hime⟩, fun _ => ⟨hr, .inr rfl⟩⟩, hs.2⟩

/-- Waking from HALTED or STOPPED keeps the invariant. -/
theorem State.setRunning_inv {s : State} (hs : s.Inv) : State.Inv { s with runState := .running } := by
  obtain ⟨⟨hf, hbit, hrun, hbug⟩, hp⟩ := hs
  exact ⟨⟨hf, hbit, fun h => ⟨rfl, (hrun h).2⟩, fun h => ⟨rfl, (hbug h).2⟩⟩, hp⟩

theorem State.haltedStep_inv {s : State} (hs : s.Inv) : s.haltedStep.Inv := by
  unfold State.haltedStep
  split
  · exact hs
  · exact State.setRunning_inv hs

theorem State.stoppedStep_inv {s : State} (hs : s.Inv) : s.stoppedStep.Inv := by
  unfold State.stoppedStep
  split
  · exact State.setRunning_inv hs
  · exact hs

/-- A fetch keeps the invariant: it leaves the halt bug clear and changes nothing else the invariant speaks of. -/
theorem State.fetchInstr_inv {s : State} (hs : s.Inv) (hd : s.dispatchStage = .idle) : s.fetchInstr.2.Inv := by
  have hbug := s.fetchInstr_haltBug
  obtain ⟨n, pc, hb, oa, e⟩ := s.fetchInstr_fetchOnly
  rw [e] at hbug ⊢
  exact ⟨.of_idle hs.1.1 hd (hs.1.dispatchBit_of_idle hd) hbug, hs.2⟩

theorem haltEffect_inv {s : State} (hs : s.Inv) (hd : s.dispatchStage = .idle) (hr : s.runState = .running)
    (hb : s.haltBug = false) : (haltEffect s).Inv := by
  unfold haltEffect
  split
  · exact ⟨.of_idle hs.1.1 hd (hs.1.dispatchBit_of_idle hd) hb, hs.2⟩
  · split
    · obtain ⟨⟨hf, hbit, hrun, -⟩, hp⟩ := hs
      exact ⟨⟨hf, hbit, hrun, fun _ => ⟨hr, .inl hd⟩⟩, hp⟩
    · exact hs

theorem stopEffect_inv {s : State} (hs : s.Inv) (hd : s.dispatchStage = .idle) (hb : s.haltBug = false) :
    (stopEffect s).Inv := by
  have hbit := hs.1.dispatchBit_of_idle hd
  unfold stopEffect
  split
  · exact ⟨.of_idle hs.1.1 hd hbit hb, s.timer.writeDiv_inv hs.2.1, hs.2.2⟩
  · exact ⟨.of_idle hs.1.1 hd hbit hb, hs.2⟩

/-- Every instruction keeps the invariant. -/
theorem Effect.inv {s t : State} {i : Instr} (he : Effect s i t) (hs : s.Inv) (hd : s.dispatchStage = .idle)
    (hr : s.runState = .running) (hb : s.haltBug = false) : t.Inv := by
  have hbit := hs.1.dispatchBit_of_idle hd
  cases he with
  | ordinary _ _ h => exact .of_ordinary h hs
  | halt => exact haltEffect_inv hs hd hr hb
  | stop x => exact stopEffect_inv hs hd hb
  | di => exact ⟨.of_idle hs.1.1 hd hbit hb, hs.2⟩
  | ei => exact hs
  | reti =>
    have hpop : s.afterPop.Inv := .of_ordinary s.afterPop_ordinary hs
    obtain ⟨-, -, -, hb', hd', -⟩ := s.afterPop_ordinary.control
    exact ⟨.of_idle hpop.1.1 (hd'.trans hd) (hpop.1.dispatchBit_of_idle (hd'.trans hd)) (hb'.trans hb), hpop.2⟩
  | unassigned u => exact hs

theorem State.finishInstr_inv (armed : Bool) {s : State} (hs : s.Inv) : (s.finishInstr armed).Inv := by
  obtain ⟨⟨hf, hbit, hrun, hbug⟩, hp⟩ := hs
  unfold State.finishInstr
  split
  · exact ⟨⟨hf, hbit, fun h => ⟨(hrun h).1, rfl⟩, hbug⟩, hp⟩
  · exact ⟨⟨hf, hbit, hrun, hbug⟩, hp⟩

/-- The meaning of the fetched instruction keeps the invariant. -/
theorem State.AtInstruction.effect_inv {s u : State} {i : Instr} (hs : s.Inv) (hi : s.AtInstruction)
    (he : Effect s.fetchInstr.2 i u) : u.Inv := by
  obtain ⟨-, hd, hr, -⟩ := hi
  have hinv := State.fetchInstr_inv hs hd
  have hbug := s.fetchInstr_haltBug
  obtain ⟨n, pc, hb, oa, e⟩ := s.fetchInstr_fetchOnly
  rw [e] at he hinv hbug
  exact he.inv hinv hd hr hbug

/-- Every Processor step keeps the invariant. -/
theorem ProcMove.inv {s t : State} {n : Nat} (h : ProcMove s n t) (hs : s.Inv) : t.Inv := by
  cases h with
  | faulted _ => exact hs
  | dispatch _ _ => exact State.dispatchCycle_inv hs
  | halted _ _ _ => exact State.haltedStep_inv hs
  | stopped _ _ _ => exact State.stoppedStep_inv hs
  | dispatchStart _ hd hr hg => exact State.dispatchCycle_inv (State.dispatchStart_inv hs hd hr hg)
  | faultingInstr b1 b2 _ hi he _ => exact hi.effect_inv hs he
  | instr b1 b2 u hi he _ => exact State.finishInstr_inv _ (hi.effect_inv hs he)

/-- Settles O7: the host's actions, the Processor's move and the T-cycles each keep the invariant. -/
theorem stepKeepsInvariant : Obligations.StepKeepsInvariant := by
  intro s t hs h
  obtain ⟨n, u, hmove, rfl⟩ := step_move h
  exact State.tCycles_inv n (hmove.inv (State.hostPhase_inv hs))

/-! ## IME -/

/-- A dispatch never sets IME (60_exceptions.md R221). -/
theorem State.dispatchCycle_ime (s : State) (h : s.ime = false) : s.dispatchCycle.ime = false := by
  unfold State.dispatchCycle
  split <;> (try split) <;> simp [h]

@[simp] theorem haltEffect_ime (s : State) : (haltEffect s).ime = s.ime := by
  unfold haltEffect
  split
  · rfl
  · split <;> rfl

@[simp] theorem stopEffect_ime (s : State) : (stopEffect s).ime = s.ime := by
  unfold stopEffect
  split <;> rfl

@[simp] theorem State.haltedStep_ime (s : State) : s.haltedStep.ime = s.ime := by
  unfold State.haltedStep
  split <;> rfl

@[simp] theorem State.stoppedStep_ime (s : State) : s.stoppedStep.ime = s.ime := by
  unfold State.stoppedStep
  split <;> rfl

/-- RETI alone sets IME as an instruction's meaning (45_control.md R180). -/
theorem Effect.reti_of_ime {s t : State} {i : Instr} (he : Effect s i t) (h0 : s.ime = false) (h1 : t.ime = true) :
    i = .reti := by
  have kept : t.ime ≠ s.ime := by simp [h0, h1]
  cases he with
  | ordinary _ _ h => exact absurd h.control.2.1 kept
  | halt => exact absurd (haltEffect_ime s) kept
  | stop x => exact absurd (stopEffect_ime s) kept
  | di => exact absurd h0.symm kept
  | ei => exact absurd rfl kept
  | reti => rfl
  | unassigned u => exact absurd rfl kept

/-- An instruction read as RETI has RETI's opcode byte. -/
theorem opcode_of_reti {op b1 b2 : Byte} (h : decodeOp op b1 b2 = .reti) : op = 0xD9 :=
  decodeOp_head (b1 := b1) (b2 := b2) (rest := []) (by rw [h]; rfl)

/-- The end of an instruction sets IME only where the enable was armed at its start (60_exceptions.md R202). -/
theorem State.finishInstr_ime {armed : Bool} {s : State} (h : (s.finishInstr armed).ime = true) :
    armed = true ∨ s.ime = true := by
  cases armed with
  | true => exact .inl rfl
  | false => exact .inr h

/-- The meaning of the fetched instruction sets IME only if its opcode byte is RETI's. -/
theorem State.opcode_of_ime {s u : State} {b1 b2 : Byte} (he : Effect s.fetchInstr.2 (decodeOp (s.readByte s.pc) b1 b2) u)
    (h0 : s.ime = false) (h1 : u.ime = true) : s.readByte s.pc = 0xD9 := by
  have hfetch : s.fetchInstr.2.ime = false := by
    obtain ⟨n, pc, hb, oa, e⟩ := s.fetchInstr_fetchOnly
    rw [e]
    exact h0
  exact opcode_of_reti (he.reti_of_ime hfetch h1)

/-- A Processor step sets IME only where it runs an instruction that ends with an armed enable, or RETI. -/
theorem ProcMove.ime_rises {s t : State} {n : Nat} (h : ProcMove s n t) (h0 : s.ime = false) (h1 : t.ime = true) :
    s.AtInstruction ∧ (s.eiPending = true ∨ s.readByte s.pc = 0xD9) := by
  have kept : t.ime ≠ false := by simp [h1]
  cases h with
  | faulted _ => exact absurd h0 kept
  | dispatch _ _ => exact absurd (s.dispatchCycle_ime h0) kept
  | halted _ _ _ => exact absurd (s.haltedStep_ime.trans h0) kept
  | stopped _ _ _ => exact absurd (s.stoppedStep_ime.trans h0) kept
  | dispatchStart _ _ _ hg => simp [State.eligible, h0] at hg
  | faultingInstr b1 b2 _ hi he _ => exact ⟨hi, .inr (State.opcode_of_ime he h0 h1)⟩
  | instr b1 b2 u hi he _ => exact ⟨hi, (State.finishInstr_ime h1).imp_right (State.opcode_of_ime he h0)⟩

/-- Settles O11: the host and the T-cycles leave IME, and a Processor move sets it in these two cases only. -/
theorem imeRisesOnlyByEiOrReti : Obligations.ImeRisesOnlyByEiOrReti := by
  intro s t h h0 h1
  obtain ⟨n, u, hmove, rfl⟩ := step_move h
  obtain ⟨-, -, -, -, -, -, -, -, -, hpc, -, hime, hei, -⟩ := s.hostPhase_hostOnly
  rw [← hpc, ← hei]
  exact hmove.ime_rises (hime.trans h0) ((u.tCycles_writesOnly n).ime.symm.trans h1)

/-! ## Register pairs -/

theorem State.getStackReg_af_toNat (s : State) : (s.getStackReg .af).toNat = s.a.toNat * 256 + s.f.toNat / 16 * 16 := by
  simp only [State.getStackReg, State.flags, mkWord_toNat, and_f0_toNat]

/-- AF takes its F half through the mask (10_state.md R24); every other pair takes the whole word. -/
theorem State.getStackReg_setStackReg (p : StackReg) (v : Word) (s : State) :
    (s.setStackReg p v).getStackReg p = (if p = .af then v &&& 0xFFF0 else v) := by
  cases p with
  | af =>
    have hmask : loByte v &&& 0xF0 &&& 0xF0 = loByte v &&& 0xF0 := by rw [BitVec.and_assoc, BitVec.and_self]
    calc (s.setStackReg .af v).getStackReg .af = mkWord (hiByte v) (loByte v &&& 0xF0 &&& 0xF0) := rfl
      _ = v &&& 0xFFF0 := by rw [hmask, mkWord_and_f0, mkWord_hi_lo]
  | bc => exact mkWord_hi_lo v
  | de => exact mkWord_hi_lo v
  | hl => exact mkWord_hi_lo v

/-- Settles O35: a pair is the word of its two halves, and F's half goes through the mask. -/
theorem registerPairs : Obligations.RegisterPairs := by
  intro s v w
  exact ⟨mkWord_toNat _ _, mkWord_toNat _ _, mkWord_toNat _ _, rfl, rfl, rfl, rfl, rfl, rfl, rfl, s.getStackReg_af_toNat,
    fun p => ⟨s.getPair_setPair p v, s.setPair_pairOnly p v⟩, fun p => s.getStackReg_setStackReg p v, rfl, rfl⟩

end Sys2Proof.Machine
end

