-- ==== Sys2Proof/Proofs/Memory.lean ====
section
/-! PROOFS. The family of 20_memory.md: what a Processor access does, case by case (locked, core register, plain, unmapped,
external); that every step answers; and that a locked opcode fetch is RST 0x38. -/
namespace Sys2Proof.Machine

/-! ## The addresses of the core registers -/

/-- The address of a core register (20_memory.md R57). -/
def CoreReg.addr : CoreReg → Word
  | .div => 0xFF04 | .tima => 0xFF05 | .tma => 0xFF06 | .tac => 0xFF07 | .ifReg => 0xFF0F | .dma => 0xFF46
  | .hdma1 => 0xFF51 | .hdma2 => 0xFF52 | .hdma3 => 0xFF53 | .hdma4 => 0xFF54 | .hdma5 => 0xFF55 | .ie => 0xFFFF

/-- Each core register answers at one address only, on either variant. -/
theorem eq_addr_of_coreRegAt {variant : Variant} {addr : Word} {r : CoreReg} (h : coreRegAt variant addr = some r) :
    addr = r.addr := by
  cases variant
  all_goals
    simp only [coreRegAt, ite_eq_iff, Option.some.injEq, reduceCtorEq, and_false] at h
    repeat' obtain ⟨rfl, rfl⟩ | ⟨-, h⟩ := h
    all_goals rfl

theorem CoreReg.addr_high (r : CoreReg) : 0xFF00 ≤ r.addr.toNat := by
  cases r <;> decide

theorem CoreReg.addr_mem (r : CoreReg) : r.addr ∈
    [(0xFF04 : Word), 0xFF05, 0xFF06, 0xFF07, 0xFF0F, 0xFF46, 0xFF51, 0xFF52, 0xFF53, 0xFF54, 0xFF55, 0xFFFF] := by
  cases r <;> decide

/-! ## Locked accesses -/

theorem State.readByte_locked {s : State} {addr : Word} (h : s.busLocked addr = true) : s.readByte addr = 0xFF := if_pos h

theorem State.afterRead_locked {s : State} {addr : Word} (h : s.busLocked addr = true) : s.afterRead addr = s := if_pos h

theorem State.memWrite_locked {s : State} {addr : Word} (h : s.busLocked addr = true) (v : Byte) : s.memWrite addr v = s :=
  if_pos h

/-! ## Unlocked accesses -/

/-- An unlocked read of the Processor returns what a debug tool sees (20_memory.md R55, R61). -/
theorem State.readByte_unlocked {s : State} {addr : Word} (h : s.busLocked addr = false) : s.readByte addr = s.peek addr := by
  simp only [State.readByte, h, Bool.false_eq_true, if_false, State.peek]

/-- Outside the core registers a debug tool sees the byte of the bus (20_memory.md R57). -/
theorem State.peek_bus {s : State} {addr : Word} (h : s.coreReg addr = none) : s.peek addr = s.busByte addr := by
  simp only [State.peek, State.coreByte, h]

/-- An unlocked read of a bus address. -/
theorem State.readByte_bus {s : State} {addr : Word} (hl : s.busLocked addr = false) (hc : s.coreReg addr = none) :
    s.readByte addr = s.busByte addr := by
  rw [State.readByte_unlocked hl, State.peek_bus hc]

/-! What the bus answers at each kind of address (20_memory.md R58, R60). -/

theorem State.busByte_plain {s : State} {addr : Word} (h : s.busKind addr = .plain) :
    s.busByte addr = s.bus.mem.read addr.toNat := by
  simp only [State.busByte, h]

theorem State.busByte_unmapped {s : State} {addr : Word} (h : s.busKind addr = .unmapped) : s.busByte addr = 0xFF := by
  simp only [State.busByte, h]

theorem State.busByte_external {s : State} {addr : Word} (h : s.busKind addr = .external) :
    s.busByte addr = Config.busOracle s.bus.reads addr := by
  simp only [State.busByte, h]

/-- A read of plain or unmapped memory changes nothing, locked or not. -/
theorem State.afterRead_of_not_external {s : State} {addr : Word} (h : s.busKind addr ≠ .external) : s.afterRead addr = s :=
  s.afterRead_eq_self addr fun ⟨_, _, hk⟩ => h hk

/-- A write to a bus address that is not plain memory leaves no trace, locked or not (20_memory.md R60; log 5). -/
theorem State.memWrite_of_not_plain {s : State} {addr : Word} (hc : s.coreReg addr = none) (hk : s.busKind addr ≠ .plain)
    (v : Byte) : s.memWrite addr v = s := by
  unfold State.memWrite
  split
  · rfl
  · simp only [State.coreWrite, hc, State.busWrite]

/-- A write outside the core registers neither locks nor unlocks the bus. -/
theorem State.memWrite_busLocked {s : State} {addr : Word} (hc : s.coreReg addr = none) (v : Byte) (x : Word) :
    (s.memWrite addr v).busLocked x = s.busLocked x := by
  obtain ⟨-, -, -, hdma, -⟩ := s.memWrite_peripherals addr v hc
  simp only [State.busLocked, hdma]

/-- Settles O33: the cases of a read are the lock, the core register, and the three kinds of bus address. -/
theorem processorRead : Obligations.ProcessorRead := by
  intro s a
  refine ⟨s.busLocked_high a, fun hl => ⟨State.readByte_locked hl, State.afterRead_locked hl⟩, fun hl hc hk => ?_,
    fun hl hc hk => ?_, fun hl hc hk => ?_, fun r hr => ?_, ?_⟩
  · exact ⟨(State.readByte_bus hl hc).trans (State.busByte_plain hk), State.afterRead_of_not_external (by simp [hk])⟩
  · exact ⟨(State.readByte_bus hl hc).trans (State.busByte_unmapped hk), State.afterRead_of_not_external (by simp [hk])⟩
  · exact ⟨(State.readByte_bus hl hc).trans (State.busByte_external hk), s.afterRead_external a ⟨hl, hc, hk⟩⟩
  · obtain rfl := eq_addr_of_coreRegAt hr
    obtain ⟨hread, hafter, -⟩ := State.coreReg_access r.addr_high hr
    exact ⟨hread, hafter, r.addr_mem⟩
  · exact (State.coreReg_access (by decide) (show s.coreReg 0xFF46 = some .dma from rfl)).1

/-- Settles O34: a write that is not dropped reaches the one byte at its address, or a core register. -/
theorem processorWrite : Obligations.ProcessorWrite := by
  intro s a v
  refine ⟨fun hl => State.memWrite_locked hl v, fun hc hk => State.memWrite_of_not_plain hc (by simp [hk]) v,
    fun hc hk => State.memWrite_of_not_plain hc (by simp [hk]) v, fun hp => ?_, s.memWrite_storeFrame a v,
    s.memWrite_regsKept a v, s.memWrite_f a v, s.memWrite_sp a v, s.memWrite_pc a v⟩
  have hpeek := s.memWrite_peek a v hp
  obtain ⟨hl, hc, -⟩ := hp
  have hread := State.readByte_unlocked ((State.memWrite_busLocked hc v a).trans hl)
  exact ⟨hpeek, hread.trans hpeek⟩

/-! ## Every step answers -/

/-- Every Processor step answers a next state: an instruction step because the decoder reads whatever was fetched and every
instruction has a meaning (`State.instrStep_next`), every other case by itself (60_exceptions.md R201). -/
theorem procStep_next (s : State) : ∃ n t, procStep s = .next (n, t) := by
  unfold procStep
  split
  · exact ⟨0, s, rfl⟩
  split
  · exact ⟨4, s.dispatchCycle, rfl⟩
  split
  · exact ⟨4, s.haltedStep, rfl⟩
  · exact ⟨0, s.stoppedStep, rfl⟩
  split
  · exact ⟨4, State.dispatchCycle { s with dispatchStage := .m1 }, rfl⟩
  obtain ⟨_, _, _, -, -, hstep⟩ := s.instrStep_next
  exact ⟨_, _, hstep⟩

/-- Settles O8: the Processor step after the host's actions answers, and the T-cycles are total. -/
theorem stepAnswersNext : Obligations.StepAnswersNext := by
  intro s
  obtain ⟨n, t, h⟩ := procStep_next s.hostPhase
  exact ⟨t.tCycles n, step_of_procStep h⟩

/-! ## A locked opcode fetch -/

/-- The state after a locked opcode fetch (20_memory.md R56, 60_exceptions.md R201). -/
def State.afterLockedOpcode (s : State) : State := s.withFetch (s.pc + 1) s.haltBug s.pc

/-- A locked fetch reads the one byte 0xFF, which asks for no operand, and moves PC past it (20_memory.md R55, R56). -/
theorem State.fetchInstr_locked {s : State} (hb : s.haltBug = false) (hl : s.busLocked s.pc = true) :
    s.fetchInstr = ([0xFF], s.afterLockedOpcode) := by
  have hread : s.afterReads s.pc 1 = s := State.afterRead_locked hl
  rw [s.fetchInstr_of_bytesAt 0xFF [] hb rfl ⟨State.readByte_locked hl, trivial⟩, List.length_nil, Nat.zero_add, hread]
  rfl

/-- A push onto a locked stack moves SP only. -/
theorem State.push16_locked {s : State} (h1 : s.busLocked (s.sp - 1) = true) (h2 : s.busLocked (s.sp - 2) = true) (v : Word) :
    s.push16 v = { s with sp := s.sp - 2 } := by
  rw [s.push16_eq, State.memWrite_locked h1, State.memWrite_locked h2]

/-- A locked opcode fetch makes the step that of `RST 0x38`, from the PC past the byte read (20_memory.md R56). -/
theorem procStep_lockedFetch {s : State} (hs : s.AtInstruction) (hb : s.haltBug = false) (hl : s.busLocked s.pc = true) :
    procStep s = .next (instrCost s.cfg (.ofRst 7) true,
      (call 0x0038 s.afterLockedOpcode).finishInstr s.eiPending) := by
  obtain ⟨b1, b2, t, hexec, -, hstep⟩ := s.instrStep_next
  have hop : decodeOp (s.readByte s.pc) b1 b2 = .ofRst 7 := by rw [State.readByte_locked hl]; rfl
  rw [hop, State.fetchInstr_locked hb hl, exec_ofRst] at hexec
  obtain rfl : call 0x0038 s.afterLockedOpcode = t := Host.Outcome.next.inj hexec
  obtain ⟨-, -, -, -, -, -, hfault, -⟩ := (call_ordinary 0x0038 s.afterLockedOpcode).control
  rw [procStep_instruction hs, hstep, hop, hfault.trans hs.1]
  rfl

theorem call_regsKept (t : Word) (s : State) : RegsKept [] s (call t s) := by
  intro r hr
  rw [← s.push16_regsKept s.pc r hr]
  cases r <;> rfl

theorem State.afterLockedOpcode_regsKept (s : State) : RegsKept [] s s.afterLockedOpcode := by
  intro r _
  cases r <;> rfl

/-- A call with a locked stack stores nothing. -/
theorem call_storedAs_locked {s : State} (h1 : s.busLocked (s.sp - 1) = true) (h2 : s.busLocked (s.sp - 2) = true) (t : Word) :
    StoredAs s (call t s) := by
  unfold call
  rw [State.push16_locked h1 h2]
  exact .refl s

/-- The end of an instruction leaves all but IME and the pending enable (60_exceptions.md R202). -/
theorem State.finishInstr_frame (armed : Bool) (s : State) : (s.finishInstr armed).pc = s.pc ∧
    (s.finishInstr armed).sp = s.sp ∧ (s.finishInstr armed).f = s.f ∧ (s.finishInstr armed).bus = s.bus ∧
    RegsKept [] s (s.finishInstr armed) ∧ PeripheralsKept s (s.finishInstr armed) := by
  unfold State.finishInstr
  split
  · exact ⟨rfl, rfl, rfl, rfl, fun r _ => by cases r <;> rfl, rfl, rfl, rfl, rfl, rfl⟩
  · exact ⟨rfl, rfl, rfl, rfl, fun _ _ => rfl, rfl, rfl, rfl, rfl, rfl⟩

/-- Settles O28: the step is RST 0x38's, which pushes PC, jumps to 0x0038 and leaves the rest. -/
theorem lockedFetchRunsRst38 : Obligations.LockedFetchRunsRst38 := by
  intro s hs hb hl
  obtain ⟨hpc, hsp, hf, hbus, hregs, hper⟩ := (call 0x0038 s.afterLockedOpcode).finishInstr_frame s.eiPending
  obtain ⟨-, hime, -⟩ := (call_ordinary 0x0038 s.afterLockedOpcode).control
  refine ⟨_, procStep_lockedFetch hs hb hl, hpc, hsp.trans (State.push16_sp _ _), hf.trans (State.push16_f _ _),
    fun r hr => ?_, fun h1 h2 => ?_, fun he => ?_⟩
  · rw [hregs r hr, call_regsKept 0x0038 _ r hr, s.afterLockedOpcode_regsKept r hr]
  · exact (call_storedAs_locked (s := s.afterLockedOpcode) h1 h2 0x0038).trans ⟨hbus, hper⟩
  · rw [he]
    exact hime

end Sys2Proof.Machine
end

