-- ==== Sys2Proof/Proofs/Encoding.lean ====
section
/-! PROOFS. The family of 30_encoding.md: what the decoder answers for an opcode byte and its operand bytes, and for too few of
them; and that decoding and encoding undo each other. -/
namespace Sys2Proof.Machine

/-! ## What the decoder answers -/

/-- The instruction of an opcode byte and a list of operand bytes; an operand byte that is not there counts as 0. -/
def decodeOperands (op : Byte) (operands : List Byte) : Instr :=
  decodeOp op (operands.getD 0 0) (operands.getD 1 0)

/-- As many operand bytes as the opcode byte asks for are read, and what follows them is left (30_encoding.md R71, R83). -/
theorem decode_of_operands {op : Byte} {operands : List Byte} (h : operands.length = operandCount op) (rest : List Byte) :
    decode (op :: operands ++ rest) = .instr (decodeOperands op operands) rest := by
  have hle := operandCount_le op
  match operands with
  | [] | [_] | [_, _] => simp [decode, decodeOperands, ← h]
  | _ :: _ :: _ :: _ => simp only [List.length_cons] at h; omega

/-- Fewer operand bytes than the opcode byte asks for are rejected (30_encoding.md R83). -/
theorem decode_of_short {op : Byte} {rest : List Byte} (h : rest.length < operandCount op) :
    decode (op :: rest) = .rejected (.missingOperand op) := by
  have hle := operandCount_le op
  match rest with
  | [] =>
    obtain hc | hc : operandCount op = 1 ∨ operandCount op = 2 := by simp only [List.length_nil] at h; omega
    · simp [decode, hc]
    · simp [decode, hc]
  | [_] =>
    have hc : operandCount op = 2 := by simp only [List.length_cons, List.length_nil] at h; omega
    simp [decode, hc]
  | _ :: _ :: _ => simp only [List.length_cons] at h; omega

/-- The decoder on a list with enough bytes: the operand bytes are the first ones after the opcode byte. -/
theorem decode_of_long {op : Byte} {rest : List Byte} (h : operandCount op ≤ rest.length) :
    decode (op :: rest) = .instr (decodeOperands op (rest.take (operandCount op))) (rest.drop (operandCount op)) := by
  have hread := decode_of_operands (List.length_take_of_le h) (rest.drop (operandCount op))
  rwa [List.cons_append, List.take_append_drop] at hread

/-- Every way to read an instruction: the bytes are the opcode byte, its operand bytes, and what is left. -/
theorem decode_cases {bytes rest : List Byte} {i : Instr} (h : decode bytes = .instr i rest) :
    ∃ op operands, operands.length = operandCount op ∧ bytes = op :: operands ++ rest ∧ i = decodeOperands op operands := by
  match bytes with
  | [] => cases h
  | op :: tail =>
    obtain hshort | hlong := lt_or_ge tail.length (operandCount op)
    · rw [decode_of_short hshort] at h
      cases h
    · rw [decode_of_long hlong] at h
      cases h
      exact ⟨op, tail.take _, List.length_take_of_le hlong, by simp, rfl⟩

/-! ## Decoding and encoding undo each other -/

/-- The encoder writes the opcode byte and the operand bytes an instruction was read from. -/
theorem encode_decodeOperands {op : Byte} {operands : List Byte} (h : operands.length = operandCount op) :
    encode (decodeOperands op operands) = op :: operands := by
  have hle := operandCount_le op
  rw [decodeOperands, (encode_decodeOp op _ _).2, ← h]
  match operands with
  | [] | [_] | [_, _] => rfl
  | _ :: _ :: _ :: _ => simp only [List.length_cons] at h; omega

/-- Row by row of spec/opcode_table.json: the decoder's rows read an instruction back from the opcode byte and the operand bytes
the encoder writes for it. A word operand is put together again from its two bytes (`immWord_wordBytes`). -/
theorem decodeOperands_encode {i : Instr} (h : i.wellFormed = true) :
    ∃ op operands, encode i = op :: operands ∧ operands.length = operandCount op ∧ decodeOperands op operands = i := by
  cases i with
  | prefixCb _ => cases h
  | ldBcNn nn | ldDeNn nn | ldHlNn nn | ldSpNn nn | ldAtNnSp nn | ldAtNnA nn | ldAAtNn nn
  | jpNn nn | jpNzNn nn | jpZNn nn | jpNcNn nn | jpCNn nn | callNn nn | callNzNn nn | callZNn nn | callNcNn nn | callCNn nn =>
    exact ⟨_, wordBytes nn, rfl, rfl, congrArg _ (immWord_wordBytes nn)⟩
  | _ => exact ⟨_, _, rfl, rfl, rfl⟩

/-- Settles O2: the encoder writes an opcode byte and the operand bytes it asks for, from which the decoder reads the
instruction back. -/
theorem decodeOfEncode : Obligations.DecodeOfEncode := by
  intro i h rest
  obtain ⟨op, operands, hencode, hlength, hdecode⟩ := decodeOperands_encode h
  rw [hencode, decode_of_operands hlength rest, hdecode]

/-- Settles O3: what was read is an opcode byte with its operand bytes, and these are what the encoder writes. -/
theorem encodeOfDecode : Obligations.EncodeOfDecode := by
  intro bytes i rest h
  obtain ⟨op, operands, hlength, rfl, rfl⟩ := decode_cases h
  exact ⟨(encode_decodeOp op _ _).1, by rw [encode_decodeOperands hlength]⟩

/-- Settles O4: the number of bytes after the first one decides. -/
theorem decodeRejectsOnlyShort : Obligations.DecodeRejectsOnlyShort :=
  ⟨⟨_, rfl⟩, fun op _ => ⟨operandCount_le op, fun hlong => ⟨_, decode_of_long hlong⟩, decode_of_short⟩⟩

/-- Settles O1, by running the decoder on each of the words. -/
theorem decodeWrittenWords : Obligations.DecodeWrittenWords := by
  unfold Obligations.DecodeWrittenWords
  decide

end Sys2Proof.Machine
end

