-- ==== Sys2Proof/Proofs/Load8.lean ====
section
/-! PROOFS. The family of 40_load8.md: what a load, a store, and either of them with a step of HL changes, each said once for
every instruction that does it. -/
namespace Sys2Proof.Machine

/-! ## Registers -/

theorem State.setReg_getReg (r : Reg8) (s : State) : s.setReg r (s.getReg r) = s := by
  cases r <;> rfl

/-- A write of one register sets it, and changes nothing else, no flag either. -/
theorem State.setReg_sets (r : Reg8) (v : Byte) (s : State) :
    (s.setReg r v).getReg r = v ∧ (s.setReg r v).f = s.f ∧ NothingElse [r] s (s.setReg r v) :=
  ⟨s.getReg_setReg_same r v, s.setReg_f r v, ReadsOnly.refl.setReg_nothingElse r v⟩

theorem RegsKept.trans {l1 l2 : List Reg8} {s t u : State} (h1 : RegsKept l1 s t) (h2 : RegsKept l2 t u) :
    RegsKept (l1 ++ l2) s u := by
  intro r hr
  rw [List.mem_append, not_or] at hr
  exact (h2 r hr.2).trans (h1 r hr.1)

/-! ## HL written after another effect -/

theorem State.setHl_regsKept (v : Word) (s : State) : RegsKept [.h, .l] s (s.setHl v) :=
  (s.setPair_pairOnly .hl v).1

/-- Writing HL adds H and L to the registers of a frame. -/
theorem NothingElse.setHl {regs : List Reg8} {s t : State} (h : NothingElse regs s t) (v : Word) :
    NothingElse (regs ++ [.h, .l]) s (t.setHl v) := by
  obtain ⟨hregs, hrest⟩ := h
  exact ⟨hregs.trans (t.setHl_regsKept v), hrest⟩

/-- HL plays no part in what a store leaves. -/
theorem StoresOnly.setHl {addr : Word} {v : Byte} {s t : State} (h : StoresOnly addr v s t) (w : Word) :
    StoresOnly addr v s (t.setHl w) := h

/-! ## The operations of the family -/

/-- A load from memory: the register takes the byte read, and the read moves no more than the count of external reads. -/
theorem ldFromMem_loads (r : Reg8) (addr : Word) (s : State) :
    (ldFromMem r addr s).getReg r = s.readByte addr ∧ (ldFromMem r addr s).f = s.f ∧
      NothingElse [r] s (ldFromMem r addr s) :=
  ⟨State.getReg_setReg_same r _ _, (State.setReg_f r _ _).trans (s.afterRead_f addr),
    (s.afterRead_readsOnly addr).setReg_nothingElse r _⟩

/-- `LD A,(HL+)` and `LD A,(HL-)`, for whatever HL becomes: it is written after the load, so the access is at the old HL. -/
theorem ldAFromHlThen_loads (next : Word) (s : State) :
    (ldAFromHlThen next s).a = s.readByte s.hl ∧ (ldAFromHlThen next s).hl = next ∧ (ldAFromHlThen next s).f = s.f ∧
      NothingElse [.a, .h, .l] s (ldAFromHlThen next s) := by
  obtain ⟨ha, hf, hrest⟩ := ldFromMem_loads .a s.hl s
  exact ⟨ha, State.hl_setHl next _, hf, hrest.setHl next⟩

/-- `LD (HL+),A` and `LD (HL-),A`, for whatever HL becomes: it is written after the store, so the access is at the old HL. -/
theorem ldAToHlThen_stores (next : Word) (s : State) :
    StoresOnly s.hl s.a s (ldAToHlThen next s) ∧ (ldAToHlThen next s).hl = next ∧
      RegsKept [.h, .l] s (ldAToHlThen next s) :=
  ⟨(s.memWrite_storesOnly s.hl s.a).setHl next, State.hl_setHl next _,
    (s.memWrite_regsKept s.hl s.a).trans (State.setHl_regsKept next _)⟩

/-! ## The instructions of the family -/

theorem loadsByte_of_exec {i : Instr} {r : Reg8} {addr : State → Word}
    (h : ∀ s, exec i s = .next (ldFromMem r (addr s) s)) : LoadsByte i r addr :=
  fun s => ⟨_, h s, ldFromMem_loads r (addr s) s⟩

theorem storesByte_of_exec {i : Instr} {addr : State → Word} {v : State → Byte}
    (h : ∀ s, exec i s = .next (ldToMem (addr s) (v s) s)) : StoresByte i addr v :=
  fun s => ⟨_, h s, s.memWrite_storesOnly (addr s) (v s), s.memWrite_regsKept (addr s) (v s)⟩

/-- Settles O36: either instruction is a write of the destination, which is the identity when the register holds the value. -/
theorem loadRegister : Obligations.LoadRegister :=
  ⟨fun dst src s => ⟨_, exec_ofLdRegReg dst src s, s.setReg_sets dst (s.getReg src)⟩,
    fun r s => (exec_ofLdRegReg r r s).trans (congrArg _ (s.setReg_getReg r)),
    fun r n s => ⟨_, exec_ofLdRegN r n s, s.setReg_sets r n⟩⟩

/-- Settles O37: each instruction is `ldFromMem` at its own address. -/
theorem loadFromMemory : Obligations.LoadFromMemory := by
  refine ⟨fun r => loadsByte_of_exec (exec_ofLdRegAtHl r), loadsByte_of_exec fun _ => rfl, loadsByte_of_exec fun _ => rfl,
    fun nn => loadsByte_of_exec fun _ => rfl, fun n => loadsByte_of_exec fun s => ?_, loadsByte_of_exec fun s => ?_⟩
  all_goals
    rw [← highPage_eq]
    rfl

/-- Settles O38: each instruction is `ldToMem` of its own byte at its own address. -/
theorem storeToMemory : Obligations.StoreToMemory := by
  refine ⟨fun r => storesByte_of_exec (exec_ofLdAtHlReg r), fun n => storesByte_of_exec fun _ => rfl,
    storesByte_of_exec fun _ => rfl, storesByte_of_exec fun _ => rfl, fun nn => storesByte_of_exec fun _ => rfl,
    fun n => storesByte_of_exec fun s => ?_, storesByte_of_exec fun s => ?_⟩
  all_goals
    rw [← highPage_eq]
    rfl

/-- Settles O39: each instruction is the load or the store at HL, and then a write of HL. -/
theorem loadAndStepHl : Obligations.LoadAndStepHl :=
  fun s => ⟨⟨_, rfl, ldAFromHlThen_loads (s.hl + 1) s⟩, ⟨_, rfl, ldAFromHlThen_loads (s.hl - 1) s⟩,
    ⟨_, rfl, ldAToHlThen_stores (s.hl + 1) s⟩, ⟨_, rfl, ldAToHlThen_stores (s.hl - 1) s⟩⟩

end Sys2Proof.Machine
end

