-- ==== Sys2Proof/Proofs/Load16.lean ====
section
/-! PROOFS. The family of 41_load16.md: what a second store adds to the frame of a first one, what writing a pair leaves after a
pop, and the instructions that load, store, push and pop a word. -/
namespace Sys2Proof.Machine

/-! ## One store after another -/

theorem PeripheralsKept.trans {s t u : State} (h1 : PeripheralsKept s t) (h2 : PeripheralsKept t u) : PeripheralsKept s u := by
  obtain ⟨a1, a2, a3, a4, a5⟩ := h1
  obtain ⟨b1, b2, b3, b4, b5⟩ := h2
  exact ⟨b1.trans a1, b2.trans a2, b3.trans a3, b4.trans a4, b5.trans a5⟩

/-- The frames of two stores add up. The core registers are the same for both, because the first store keeps the parameters. -/
theorem StoreFrame.trans {l1 l2 : List Word} {s t u : State} (h1 : StoreFrame l1 s t) (h2 : StoreFrame l2 t u)
    (hst : WritesOnly s t) : StoreFrame (l1 ++ l2) s u := by
  obtain ⟨hctl1, hbytes1, hper1⟩ := h1
  obtain ⟨hctl2, hbytes2, hper2⟩ := h2
  refine ⟨hctl1.trans hctl2, hbytes1.trans hbytes2 hst, fun hs => ?_⟩
  have hs2 : ∀ addr ∈ l2, t.coreReg addr = none := fun a ha => (hst.coreReg a).trans (hs a (List.mem_append_right _ ha))
  exact (hper1 fun a ha => hs a (List.mem_append_left _ ha)).trans (hper2 hs2)

/-! ## A pair of PUSH and POP, written after another effect -/

/-- BC, DE and HL are the pairs of the other 16-bit instructions; of AF, only A is a general register. -/
theorem State.setStackReg_regsKept (p : StackReg) (v : Word) (s : State) : RegsKept (stackRegs p) s (s.setStackReg p v) := by
  cases p with
  | bc => exact (s.setPair_pairOnly .bc v).1
  | de => exact (s.setPair_pairOnly .de v).1
  | hl => exact s.setHl_regsKept v
  | af => exact s.setReg_regsKept .a (hiByte v)

/-- F is a half of AF only. -/
theorem State.setStackReg_f {p : StackReg} (hp : p ≠ .af) (v : Word) (s : State) : (s.setStackReg p v).f = s.f := by
  cases p with
  | af => exact absurd rfl hp
  | bc | de | hl => rfl

/-- Apart from the registers, writing a pair keeps what the effect before it kept. -/
theorem State.setStackReg_frame {s t : State} (p : StackReg) (v : Word) (hctl : ControlKept s t) (hper : PeripheralsKept s t)
    (hbytes : OtherBytesKept [] s t) : ControlKept s (t.setStackReg p v) ∧ PeripheralsKept s (t.setStackReg p v) ∧
      OtherBytesKept [] s (t.setStackReg p v) := by
  cases p <;> exact ⟨hctl, hper, hbytes⟩

/-! ## The operations of the family -/

theorem storeSp_storeFrame (nn : Word) (s : State) : StoreFrame [nn, nn + 1] s (storeSp nn s) :=
  (s.memWrite_storeFrame nn (loByte s.sp)).trans (State.memWrite_storeFrame (nn + 1) (hiByte s.sp) _)
    (s.memWrite_writesOnly nn (loByte s.sp))

theorem storeSp_regsKept (nn : Word) (s : State) : RegsKept [] s (storeSp nn s) :=
  (s.memWrite_regsKept nn (loByte s.sp)).trans (State.memWrite_regsKept (nn + 1) (hiByte s.sp) _)

theorem Word.ne_next (w : Word) : w ≠ w + 1 := by simp

/-! ## The instructions of the family -/

/-- Settles O40: each instruction is one write of the pair, and `PairOnly` is the frame of such a write. -/
theorem pairInstructions : Obligations.PairInstructions := by
  refine ⟨fun p nn s => ⟨_, exec_ofLdPairNn p nn s, s.getPair_setPair p nn, s.setPair_pairOnly p nn⟩,
    fun s => ⟨s.setPair .sp s.hl, rfl, rfl, s.setPair_pairOnly .sp s.hl⟩,
    fun p s => ⟨_, exec_ofIncPair p s, ?_, s.setPair_pairOnly p _⟩, fun p s => ⟨_, exec_ofDecPair p s, ?_, s.setPair_pairOnly p _⟩⟩
  · rw [incPair, State.getPair_setPair, BitVec.toNat_add]
    rfl
  · rw [decPair, State.getPair_setPair, BitVec.toNat_sub, Nat.add_comm]
    rfl

/-- Settles O41: two stores, at different addresses, one after the other. -/
theorem storeSp_storesBothBytes : Obligations.StoreSp := by
  intro nn s
  refine ⟨storeSp nn s, rfl, .refl _, storeSp_regsKept nn s, by simp [storeSp], by simp [storeSp], by simp [storeSp],
    storeSp_storeFrame nn s, fun hlo hhi => ?_⟩
  obtain ⟨hpeekLo, hpeekHi, -⟩ :=
    s.memWrite_two nn (nn + 1) (loByte s.sp) (hiByte s.sp) hlo hhi (Word.ne_next nn) rfl
  exact ⟨hpeekLo, hpeekHi⟩

/-- Settles O42: the instruction is `push16` of the pair. -/
theorem pushPair : Obligations.PushPair :=
  fun p s => ⟨_, exec_ofPush p s, s.push16_pushes (s.getStackReg p), State.push16_pc _ s⟩

/-- Settles O43: the instruction is `pop16`, which moves SP only, and then a write of the pair. -/
theorem popPair : Obligations.PopPair := by
  intro p s
  obtain ⟨hsp, hpc, hf, hregs, hctl, hper, hbytes⟩ := s.afterPop_frame
  refine ⟨pop p s, s.popWord, exec_ofPop p s, s.popWord_eq, State.getStackReg_setStackReg p _ _,
    (State.setStackReg_sp p _ _).trans hsp, fun hp => (State.setStackReg_f hp _ _).trans hf, fun hp => ?_,
    hregs.trans (State.setStackReg_regsKept p _ _), (State.setStackReg_pc p _ _).trans hpc,
    State.setStackReg_frame p _ hctl hper hbytes⟩
  subst hp
  rfl

end Sys2Proof.Machine
end

