-- ==== Sys2Proof/Proofs/Alu8.lean ====
section
/-! PROOFS. The family of 42_alu8.md: each 8-bit computation as arithmetic on numbers, with the flags it packs; what an
accumulator instruction leaves; and that DAA turns the sum or difference of two BCD bytes into BCD. -/
namespace Sys2Proof.Machine

/-! ## The computations as arithmetic on numbers -/

theorem Byte.beq_zero (r : Byte) : (r == 0) = decide (r.toNat = 0) := by
  rw [Bool.eq_iff_iff, beq_iff_eq, decide_eq_true_iff, ← BitVec.toNat_inj]
  rfl

theorem addFlags_fst_toNat (a b : Byte) (c : Bool) : (addFlags a b c).1.toNat = (a.toNat + b.toNat + c.toNat) % 256 :=
  BitVec.toNat_ofNat _ 8

theorem addFlags_snd (a b : Byte) (c : Bool) :
    (addFlags a b c).2 = packFlags (decide ((addFlags a b c).1.toNat = 0)) false
      (decide (a.toNat % 16 + b.toNat % 16 + c.toNat > 15)) (decide (a.toNat + b.toNat + c.toNat > 255)) := by
  rw [← Byte.beq_zero, ← lowNibble_eq a, ← lowNibble_eq b]
  rfl

theorem subFlags_fst_toNat (a b : Byte) (c : Bool) :
    (subFlags a b c).1.toNat = (a.toNat + 512 - b.toNat - c.toNat) % 256 := by
  have hb := b.isLt
  have hc := c.toNat_lt
  simp only [subFlags, BitVec.toNat_sub, BitVec.toNat_ofNat]
  omega

theorem subFlags_snd (a b : Byte) (c : Bool) :
    (subFlags a b c).2 = packFlags (decide ((subFlags a b c).1.toNat = 0)) true
      (decide (a.toNat % 16 < b.toNat % 16 + c.toNat)) (decide (a.toNat < b.toNat + c.toNat)) := by
  rw [← Byte.beq_zero, ← lowNibble_eq a, ← lowNibble_eq b]
  rfl

theorem logicFlags_snd (r : Byte) (h : Bool) :
    (logicFlags r h).2 = packFlags (decide ((logicFlags r h).1.toNat = 0)) false h false := by
  rw [← Byte.beq_zero]
  rfl

theorem incResult_fst_toNat (old : Byte) (c : Bool) : (incResult old c).1.toNat = (old.toNat + 1) % 256 :=
  BitVec.toNat_add old 1

theorem incResult_snd (old : Byte) (c : Bool) :
    (incResult old c).2 = packFlags (decide (old.toNat = 255)) false (decide (old.toNat % 16 = 15)) c := by
  have hz : (incResult old c).1.toNat = 0 ↔ old.toNat = 255 := by
    rw [incResult_fst_toNat]
    have := old.isLt
    omega
  rw [← decide_eq_decide.mpr hz, ← Byte.beq_zero, ← lowNibble_eq]
  rfl

theorem decResult_fst_toNat (old : Byte) (c : Bool) : (decResult old c).1.toNat = (old.toNat + 255) % 256 := by
  rw [Nat.add_comm]
  exact BitVec.toNat_sub old 1

theorem decResult_snd (old : Byte) (c : Bool) :
    (decResult old c).2 = packFlags (decide (old.toNat = 1)) true (decide (old.toNat % 16 = 0)) c := by
  have hz : (decResult old c).1.toNat = 0 ↔ old.toNat = 1 := by
    rw [decResult_fst_toNat]
    have := old.isLt
    omega
  rw [← decide_eq_decide.mpr hz, ← Byte.beq_zero, ← lowNibble_eq]
  rfl

/-! ## What the instructions leave -/

theorem State.setFlags_hasFlags_of_eq {v : Byte} {z n h c : Bool} (s : State) (hv : v = packFlags z n h c) :
    HasFlags (s.setFlags v) z n h c :=
  hv ▸ s.setFlags_hasFlags z n h c

theorem NothingElse.refl (s : State) : NothingElse [] s s :=
  ReadsOnly.refl.nothingElse [] (fun _ _ => .refl _) (.refl _) (.refl _) ReadsOnly.refl.controlKept
    ReadsOnly.refl.peripheralsKept (.refl _)

/-- A register that holds its old value needs no place in a frame. -/
theorem NothingElse.of_kept {r : Reg8} {regs : List Reg8} {s t : State} (h : NothingElse (r :: regs) s t)
    (hr : t.getReg r = s.getReg r) : NothingElse regs s t := by
  obtain ⟨hregs, hrest⟩ := h
  refine ⟨fun q hq => ?_, hrest⟩
  by_cases hqr : q = r
  · rw [hqr, hr]
  · exact hregs q (List.not_mem_cons_of_ne_of_not_mem hqr hq)

theorem alu_a (op : AluOp) (src : Source) (s : State) :
    (alu op src s).a = (aluResult op s.a (s.sourceByte src) s.flagC).1 := rfl

theorem alu_nothingElse (op : AluOp) (src : Source) (s : State) : NothingElse [.a] s (alu op src s) :=
  ((s.afterSource_readsOnly src).setReg_nothingElse .a _).setFlags _

theorem alu_hasFlags {op : AluOp} {src : Source} {s : State} {z n h c : Bool}
    (hf : (aluResult op s.a (s.sourceByte src) s.flagC).2 = packFlags z n h c) : HasFlags (alu op src s) z n h c :=
  State.setFlags_hasFlags_of_eq _ hf

/-- ADD and ADC: an operation that answers `addFlags`, for the carry `c` that it adds. -/
theorem alu_adds {op : AluOp} {src : Source} {s : State} {c : Bool}
    (h : aluResult op s.a (s.sourceByte src) s.flagC = addFlags s.a (s.sourceByte src) c) :
    (alu op src s).a.toNat = (s.a.toNat + (s.sourceByte src).toNat + c.toNat) % 256 ∧
      HasFlags (alu op src s) (decide ((alu op src s).a.toNat = 0)) false
        (decide (s.a.toNat % 16 + (s.sourceByte src).toNat % 16 + c.toNat > 15))
        (decide (s.a.toNat + (s.sourceByte src).toNat + c.toNat > 255)) ∧
      NothingElse [.a] s (alu op src s) := by
  rw [alu_a, h]
  exact ⟨addFlags_fst_toNat _ _ c, alu_hasFlags (h ▸ addFlags_snd _ _ c), alu_nothingElse op src s⟩

/-- SUB and SBC: an operation that answers `subFlags`, for the borrow `c` that it subtracts. -/
theorem alu_subtracts {op : AluOp} {src : Source} {s : State} {c : Bool}
    (h : aluResult op s.a (s.sourceByte src) s.flagC = subFlags s.a (s.sourceByte src) c) :
    (alu op src s).a.toNat = (s.a.toNat + 512 - (s.sourceByte src).toNat - c.toNat) % 256 ∧
      HasFlags (alu op src s) (decide ((alu op src s).a.toNat = 0)) true
        (decide (s.a.toNat % 16 < (s.sourceByte src).toNat % 16 + c.toNat))
        (decide (s.a.toNat < (s.sourceByte src).toNat + c.toNat)) ∧
      NothingElse [.a] s (alu op src s) := by
  rw [alu_a, h]
  exact ⟨subFlags_fst_toNat _ _ c, alu_hasFlags (h ▸ subFlags_snd _ _ c), alu_nothingElse op src s⟩

/-- AND, XOR and OR: an operation that answers `logicFlags` of its result. -/
theorem alu_logic {op : AluOp} {src : Source} {s : State} {r : Byte} {hf : Bool}
    (h : aluResult op s.a (s.sourceByte src) s.flagC = logicFlags r hf) :
    HasFlags (alu op src s) (decide ((alu op src s).a.toNat = 0)) false hf false ∧ NothingElse [.a] s (alu op src s) := by
  rw [alu_a, h]
  exact ⟨alu_hasFlags (h ▸ logicFlags_snd r hf), alu_nothingElse op src s⟩

/-- Without a borrow to subtract, one 256 is enough to keep the difference from going below zero. -/
theorem Byte.sub_mod_eq (a b : Byte) : (a.toNat + 512 - b.toNat) % 256 = (a.toNat + 256 - b.toNat) % 256 := by
  have := b.isLt
  omega

theorem alu_sub_a_toNat (src : Source) (s : State) :
    (alu .sub src s).a.toNat = (s.a.toNat + 256 - (s.sourceByte src).toNat) % 256 :=
  (subFlags_fst_toNat _ _ false).trans (Byte.sub_mod_eq _ _)

/-! ## DAA -/

/-- The correction of the high digit does not reach the low one. -/
theorem lowNibble_add_60 (a : Byte) : lowNibble (a + 0x60) = lowNibble a := by
  rw [lowNibble_eq, lowNibble_eq, BitVec.toNat_add]
  show (a.toNat + 96) % 256 % 16 = a.toNat % 16
  omega

theorem daaCarry_after_add (a : Byte) (c : Bool) : daaCarry a false c = decide (c = true ∨ a.toNat > 0x99) := by
  simp [daaCarry]

/-- After an addition, each correction is made when its digit carried or is above 9. -/
theorem daaResult_after_add (a : Byte) (h c : Bool) :
    (daaResult a false h c).1 = a + (if c = true ∨ a.toNat > 0x99 then 0x60 else 0) +
      (if h = true ∨ a.toNat % 16 > 9 then 0x06 else 0) := by
  have hlow : lowNibble (if c = true ∨ a.toNat > 0x99 then a + 0x60 else a) = a.toNat % 16 := by
    split
    · rw [lowNibble_add_60, lowNibble_eq]
    · exact lowNibble_eq a
  simp only [daaResult, daaCarry_after_add, decide_eq_true_eq, Bool.or_eq_true, Bool.false_eq_true, if_false, hlow]
  split_ifs <;> simp

/-- After a subtraction, each correction is made when its digit borrowed. -/
theorem daaResult_after_sub (a : Byte) (h c : Bool) :
    (daaResult a true h c).1 = a - (if c = true then 0x60 else 0) - (if h = true then 0x06 else 0) := by
  simp only [daaResult, if_true]
  split_ifs <;> simp

theorem daaResult_snd (a : Byte) (n h c : Bool) :
    (daaResult a n h c).2 = packFlags (decide ((daaResult a n h c).1.toNat = 0)) n false (daaCarry a n c) := by
  rw [← Byte.beq_zero]
  rfl

theorem decimalAdjust_a (s : State) : (decimalAdjust s).a = (daaResult s.a s.flagN s.flagH s.flagC).1 := rfl

theorem decimalAdjust_nothingElse (s : State) : NothingElse [.a] s (decimalAdjust s) :=
  (ReadsOnly.refl.setReg_nothingElse .a _).setFlags _

theorem decimalAdjust_hasFlags (s : State) :
    HasFlags (decimalAdjust s) (decide ((decimalAdjust s).a.toNat = 0)) s.flagN false (daaCarry s.a s.flagN s.flagC) :=
  State.setFlags_hasFlags_of_eq _ (daaResult_snd s.a s.flagN s.flagH s.flagC)

theorem decimalAdjust_after_add {s : State} (hn : s.flagN = false) :
    (decimalAdjust s).a.toNat = (s.a.toNat + (if s.flagC = true ∨ s.a.toNat > 0x99 then 0x60 else 0) +
        (if s.flagH = true ∨ s.a.toNat % 16 > 9 then 0x06 else 0)) % 256 ∧
      HasFlags (decimalAdjust s) (decide ((decimalAdjust s).a.toNat = 0)) false false
        (decide (s.flagC = true ∨ s.a.toNat > 0x99)) := by
  have hflags := decimalAdjust_hasFlags s
  rw [hn, daaCarry_after_add] at hflags
  refine ⟨?_, hflags⟩
  rw [decimalAdjust_a, hn, daaResult_after_add, BitVec.toNat_add, BitVec.toNat_add, Nat.mod_add_mod]
  split_ifs <;> rfl

theorem decimalAdjust_after_sub {s : State} (hn : s.flagN = true) :
    (decimalAdjust s).a.toNat =
        (s.a.toNat + 256 - (if s.flagC = true then 0x60 else 0) - (if s.flagH = true then 0x06 else 0)) % 256 ∧
      HasFlags (decimalAdjust s) (decide ((decimalAdjust s).a.toNat = 0)) true false s.flagC := by
  have hflags := decimalAdjust_hasFlags s
  rw [hn] at hflags
  refine ⟨?_, hflags⟩
  rw [decimalAdjust_a, hn, daaResult_after_sub]
  split_ifs <;> bv_omega

/-! ## BCD -/

theorem bcd_toNat {x : Nat} (hx : x < 100) : (bcd x).toNat = x / 10 * 16 + x % 10 := by
  rw [bcd, BitVec.toNat_ofNat]
  omega

/-- A in BCD, from its two digits; it is zero when the number is. -/
theorem bcd_result {t : State} {x : Nat} {n h c : Bool} (hx : x < 100) (ha : t.a.toNat = x / 10 * 16 + x % 10)
    (hflags : HasFlags t (decide (t.a.toNat = 0)) n h c) : t.a = bcd x ∧ HasFlags t (decide (x = 0)) n h c := by
  have hz : t.a.toNat = 0 ↔ x = 0 := by omega
  rw [decide_eq_decide.mpr hz] at hflags
  exact ⟨BitVec.eq_of_toNat_eq (ha.trans (bcd_toNat hx).symm), hflags⟩

/-- The high digit of a BCD sum is corrected exactly on a decimal carry out of the byte, and the low one on a decimal carry
out of that digit. -/
theorem bcd_add_carries {x y : Nat} (hx : x < 100) (hy : y < 100) :
    (((bcd x).toNat + (bcd y).toNat > 255 ∨ ((bcd x).toNat + (bcd y).toNat) % 256 > 0x99) ↔ 100 ≤ x + y) ∧
      (((bcd x).toNat % 16 + (bcd y).toNat % 16 > 15 ∨ ((bcd x).toNat + (bcd y).toNat) % 256 % 16 > 9) ↔
        10 ≤ x % 10 + y % 10) := by
  have hwrap : ∀ n : Nat, (n > 255 ∨ n % 256 > 0x99) ↔ 0x99 < n := by omega
  rw [hwrap, bcd_toNat hx, bcd_toNat hy]
  constructor <;> omega

/-- The borrows of a BCD difference are the decimal ones. -/
theorem bcd_sub_borrows {x y : Nat} (hx : x < 100) (hy : y < 100) :
    ((bcd x).toNat < (bcd y).toNat ↔ x < y) ∧ ((bcd x).toNat % 16 < (bcd y).toNat % 16 ↔ x % 10 < y % 10) := by
  rw [bcd_toNat hx, bcd_toNat hy]
  omega

/-- ADD and then DAA: the sum mod 100. -/
theorem daa_after_add {s : State} {x y : Nat} (hx : x < 100) (hy : y < 100) (ha : s.a = bcd x) :
    (decimalAdjust (alu .add (.imm (bcd y)) s)).a = bcd ((x + y) % 100) ∧
      HasFlags (decimalAdjust (alu .add (.imm (bcd y)) s)) (decide ((x + y) % 100 = 0)) false false
        (decide (100 ≤ x + y)) := by
  obtain ⟨hsum, ⟨-, hn, hh, hc, -⟩, -⟩ := alu_adds (op := .add) (src := .imm (bcd y)) (s := s) (c := false) rfl
  obtain ⟨hadj, hflags⟩ := decimalAdjust_after_add hn
  obtain ⟨hhigh, hlow⟩ := bcd_add_carries hx hy
  simp only [ha, State.sourceByte, Bool.toNat_false, Nat.add_zero] at hsum hh hc
  simp only [hh, hc, hsum, decide_eq_true_eq, hhigh, hlow] at hadj hflags
  refine bcd_result (Nat.mod_lt _ (by decide)) (hadj.trans ?_) hflags
  rw [bcd_toNat hx, bcd_toNat hy]
  split_ifs <;> omega

/-- SUB and then DAA: the difference mod 100. -/
theorem daa_after_sub {s : State} {x y : Nat} (hx : x < 100) (hy : y < 100) (ha : s.a = bcd x) :
    (decimalAdjust (alu .sub (.imm (bcd y)) s)).a = bcd ((x + 100 - y) % 100) ∧
      HasFlags (decimalAdjust (alu .sub (.imm (bcd y)) s)) (decide ((x + 100 - y) % 100 = 0)) true false
        (decide (x < y)) := by
  obtain ⟨-, ⟨-, hn, hh, hc, -⟩, -⟩ := alu_subtracts (op := .sub) (src := .imm (bcd y)) (s := s) (c := false) rfl
  obtain ⟨hadj, hflags⟩ := decimalAdjust_after_sub hn
  obtain ⟨hhigh, hlow⟩ := bcd_sub_borrows hx hy
  simp only [ha, State.sourceByte, Bool.toNat_false, Nat.add_zero] at hh hc
  simp only [alu_sub_a_toNat, ha, State.sourceByte, hh, hc, decide_eq_true_eq, hhigh, hlow] at hadj hflags
  refine bcd_result (Nat.mod_lt _ (by decide)) (hadj.trans ?_) hflags
  rw [bcd_toNat hx, bcd_toNat hy]
  split_ifs <;> omega

/-! ## The instructions of the family -/

/-- Settles O46: both answer `addFlags`; ADD adds no carry. -/
theorem addWithCarry : Obligations.AddWithCarry :=
  fun src s => ⟨⟨_, exec_ofAlu .add src s, alu_adds (c := false) rfl⟩, ⟨_, exec_ofAlu .adc src s, alu_adds rfl⟩⟩

/-- Settles O47: SUB and SBC answer `subFlags`, SUB without a borrow; CP takes its flags from SUB and leaves A. -/
theorem subtractAndCompare : Obligations.SubtractAndCompare := by
  intro src s
  obtain ⟨-, hsub⟩ := alu_subtracts (op := .sub) (src := src) (s := s) (c := false) rfl
  refine ⟨⟨_, exec_ofAlu .sub src s, alu_sub_a_toNat src s, hsub⟩, ⟨_, exec_ofAlu .sbc src s, alu_subtracts rfl⟩,
    ⟨_, exec_ofAlu .cp src s, rfl, ?_, (alu_nothingElse .cp src s).of_kept rfl⟩⟩
  have hz : (subFlags s.a (s.sourceByte src) false).1.toNat = 0 ↔ s.a = s.sourceByte src := by
    rw [subFlags_fst_toNat, ← BitVec.toNat_inj]
    have := s.a.isLt
    have := (s.sourceByte src).isLt
    simp only [Bool.toNat_false]
    omega
  rw [← decide_eq_decide.mpr hz]
  exact alu_hasFlags (subFlags_snd _ _ false)

/-- Settles O48: each answers `logicFlags` of the bitwise result. -/
theorem logic : Obligations.Logic :=
  fun src s => ⟨⟨_, exec_ofAlu .and src s, fun _ _ => BitVec.getLsbD_and, alu_logic rfl⟩,
    ⟨_, exec_ofAlu .xor src s, fun _ _ => BitVec.getLsbD_xor, alu_logic rfl⟩,
    ⟨_, exec_ofAlu .or src s, fun _ _ => BitVec.getLsbD_or, alu_logic rfl⟩⟩

/-- Settles O49: the operand is modified by `incResult` or `decResult` of what was read, and then F is written. -/
theorem incDec8 : Obligations.IncDec8 := by
  rintro o s _ rfl
  exact ⟨⟨_, _, exec_ofInc o s, incResult_fst_toNat _ s.flagC, (s.modify_modifiesLoc o _).setFlags _,
      State.setFlags_hasFlags_of_eq _ (incResult_snd _ _)⟩,
    ⟨_, _, exec_ofDec o s, decResult_fst_toNat _ s.flagC, (s.modify_modifiesLoc o _).setFlags _,
      State.setFlags_hasFlags_of_eq _ (decResult_snd _ _)⟩⟩

/-- Settles O50: N says which of the two adjustments is made. -/
theorem decimalAdjust_adjusts : Obligations.DecimalAdjust :=
  fun s => ⟨_, rfl, decimalAdjust_nothingElse s, decimalAdjust_after_add, decimalAdjust_after_sub⟩

/-- Settles O51: DAA corrects each digit that carried or borrowed, which leaves the two decimal digits of the result. -/
theorem bcdArithmetic : Obligations.BcdArithmetic := by
  intro s x y hx hy ha
  obtain ⟨hadd, hzAdd, -, -, hcAdd, -⟩ := daa_after_add hx hy ha
  obtain ⟨hsub, hzSub, -, -, hcSub, -⟩ := daa_after_sub hx hy ha
  have heq : (x + 100 - y) % 100 = 0 ↔ x = y := by omega
  exact ⟨⟨_, _, exec_ofAlu .add _ s, rfl, hadd, hcAdd, hzAdd⟩,
    ⟨_, _, exec_ofAlu .sub _ s, rfl, hsub, hcSub, hzSub.trans (decide_eq_decide.mpr heq)⟩⟩

/-- Settles O52: each writes the four flags, and CPL A before them. -/
theorem complementAndCarry : Obligations.ComplementAndCarry := by
  intro s
  refine ⟨⟨_, rfl, fun i hi => ?_, State.putFlags_hasFlags _ _ _ _ _,
      (ReadsOnly.refl.setReg_nothingElse .a _).putFlags _ _ _ _⟩,
    ⟨_, rfl, State.putFlags_hasFlags _ _ _ _ _, (NothingElse.refl s).putFlags _ _ _ _⟩,
    ⟨_, rfl, State.putFlags_hasFlags _ _ _ _ _, (NothingElse.refl s).putFlags _ _ _ _⟩⟩
  simp [hi]

end Sys2Proof.Machine
end

