-- ==== Sys2Proof/Proofs/Alu16.lean ====
section
/-! PROOFS. The family of 43_alu16.md: the two 16-bit additions as arithmetic on numbers, with the flags they pack, and what each
instruction leaves when it writes HL or SP and then F. -/
namespace Sys2Proof.Machine

/-! ## The additions as arithmetic on numbers -/

theorem Word.and_fff_toNat (w : Word) : (w &&& 0x0FFF).toNat = w.toNat % 4096 :=
  (BitVec.toNat_and w 0x0FFF).trans (Nat.and_two_pow_sub_one_eq_mod w.toNat 12)

theorem addHlResult_fst_toNat (h v : Word) (z : Bool) : (addHlResult h v z).1.toNat = (h.toNat + v.toNat) % 65536 :=
  BitVec.toNat_add h v

theorem addHlResult_snd (h v : Word) (z : Bool) :
    (addHlResult h v z).2 = packFlags z false (decide (h.toNat % 4096 + v.toNat % 4096 > 4095))
      (decide (h.toNat + v.toNat > 65535)) := by
  rw [← Word.and_fff_toNat h, ← Word.and_fff_toNat v]
  rfl

theorem lowNibble_loByte (w : Word) : lowNibble (loByte w) = w.toNat % 16 := by
  rw [lowNibble_eq, loByte_toNat]
  exact Nat.mod_mod_of_dvd w.toNat (by decide)

theorem addSpResult_snd (sp : Word) (e : Byte) :
    (addSpResult sp e).2 = packFlags false false (decide (sp.toNat % 16 + e.toNat % 16 > 15))
      (decide (sp.toNat % 256 + e.toNat > 255)) := by
  rw [← lowNibble_loByte, ← lowNibble_eq, ← loByte_toNat]
  rfl

/-! ## HL written, and then F -/

theorem State.setHl_setFlags_hl (v : Word) (f : Byte) (s : State) : (State.setFlags f (s.setHl v)).hl = v :=
  s.hl_setHl v

theorem State.setHl_setFlags_nothingElse (v : Word) (f : Byte) (s : State) :
    NothingElse [.h, .l] s (State.setFlags f (s.setHl v)) :=
  ((NothingElse.refl s).setHl v).setFlags f

/-! ## The operations of the family -/

theorem addHl_hl_toNat (p : Reg16) (s : State) :
    (addHl p s).hl.toNat = (s.hl.toNat + (s.getPair p).toNat) % 65536 := by
  rw [addHl, State.setHl_setFlags_hl, addHlResult_fst_toNat]

theorem ldHlSpOffset_hl (e : Byte) (s : State) : (ldHlSpOffset e s).hl = s.sp + sext16 e :=
  State.setHl_setFlags_hl _ _ s

/-- `ADD SP,e` writes SP as a pair, and the frame of that write does not speak of F. -/
theorem addSp_frame (e : Byte) (s : State) :
    RegsKept [] s (addSp e s) ∧ (addSp e s).pc = s.pc ∧ ControlKept s (addSp e s) ∧ PeripheralsKept s (addSp e s) ∧
      OtherBytesKept [] s (addSp e s) := by
  obtain ⟨hregs, -, -, hpc, hctl, hper, hbytes⟩ := s.setPair_pairOnly .sp (addSpResult s.sp e).1
  exact ⟨fun r hr => (State.getReg_setFlags r _ _).trans (hregs r hr), hpc, hctl, hper, hbytes⟩

/-! ## The instructions of the family -/

/-- Settles O44: both instructions answer `addSpResult`, whose sum adds the sign-extended byte. -/
theorem addSpOffset : Obligations.AddSpOffset := by
  intro e s
  refine ⟨⟨addSp e s, rfl, add_sext16_toNat s.sp e, State.setFlags_hasFlags_of_eq _ (addSpResult_snd s.sp e),
      addSp_frame e s⟩,
    ⟨ldHlSpOffset e s, rfl, ?_, State.setFlags_hasFlags_of_eq _ (addSpResult_snd s.sp e),
      State.setHl_setFlags_nothingElse _ _ s⟩⟩
  rw [ldHlSpOffset_hl, add_sext16_toNat]

/-- Settles O45: each of the four instructions is `addHl` of its pair, which answers `addHlResult`. -/
theorem addHl_adds : Obligations.AddHl :=
  fun p s => ⟨addHl p s, exec_ofAddHl p s, addHl_hl_toNat p s,
    State.setFlags_hasFlags_of_eq _ (addHlResult_snd s.hl (s.getPair p) s.flagZ), State.setHl_setFlags_nothingElse _ _ s⟩

end Sys2Proof.Machine
end

