-- ==== Sys2Proof/Proofs/RotShiftBit.lean ====
section
/-! PROOFS. The family of 44_rotate_shift_bit.md: a shift by one place with the bit that comes in, to which every rotate and
shift comes down; and what the instructions leave of the state. -/
namespace Sys2Proof.Machine

/-! ## The computations bit by bit -/

theorem Byte.getLsbD_ofNat_toNat (c : Bool) {i : Nat} (hi : i < 8) :
    (BitVec.ofNat 8 c.toNat).getLsbD i = (decide (i = 0) && c) := by
  simp only [BitVec.getLsbD_ofNat, Nat.testBit_bool_toNat, hi, decide_true, Bool.true_and]

theorem Byte.getLsbD_one_shiftLeft (b : Fin 8) (i : Nat) : (1#8 <<< b.val).getLsbD i = decide (b.val = i) := by
  rw [← BitVec.twoPow_eq, BitVec.getLsbD_twoPow, decide_eq_true b.isLt, Bool.true_and]

/-- One place to the left, with `c` coming in at bit 0. -/
theorem Byte.getLsbD_shiftLeft_one_or (v : Byte) (c : Bool) {i : Nat} (hi : i < 8) :
    ((v <<< 1) ||| BitVec.ofNat 8 c.toNat).getLsbD i = if i = 0 then c else v.getLsbD (i - 1) := by
  rw [BitVec.getLsbD_or, BitVec.getLsbD_shiftLeft, Byte.getLsbD_ofNat_toNat c hi]
  by_cases h : i = 0 <;> simp [h, hi]

/-- One place to the right, with `c` coming in at bit 7. -/
theorem Byte.getLsbD_ushiftRight_one_or (v : Byte) (c : Bool) {i : Nat} (hi : i < 8) :
    ((v >>> 1) ||| (BitVec.ofNat 8 c.toNat <<< 7)).getLsbD i = if i = 7 then c else v.getLsbD (i + 1) := by
  rw [BitVec.getLsbD_or, BitVec.getLsbD_ushiftRight, BitVec.getLsbD_shiftLeft, Byte.getLsbD_ofNat_toNat c (by omega),
    Nat.add_comm 1 i]
  by_cases h : i = 7
  · simp [h]
  · have hlt : i < 7 := by omega
    simp [h, hlt]

/-- What SRA brings in: the sign bit stays where it is. -/
theorem Byte.and_80 (v : Byte) : v &&& 0x80 = BitVec.ofNat 8 (v.getLsbD 7).toNat <<< 7 := by
  revert v
  decide

theorem rotResult_rotBits (op : RotOp) (v : Byte) (c : Bool) :
    RotBits op v (rotResult op v c).1 c (rotResult op v c).2 := by
  cases op with
  | rlc =>
    refine ⟨rfl, fun i hi => (Byte.getLsbD_shiftLeft_one_or v _ hi).trans ?_⟩
    split <;> exact congrArg v.getLsbD (by omega)
  | rrc =>
    refine ⟨rfl, fun i hi => (Byte.getLsbD_ushiftRight_one_or v _ hi).trans ?_⟩
    split <;> exact congrArg v.getLsbD (by omega)
  | rl => exact ⟨rfl, fun _ hi => Byte.getLsbD_shiftLeft_one_or v c hi⟩
  | rr => exact ⟨rfl, fun _ hi => Byte.getLsbD_ushiftRight_one_or v c hi⟩
  | sla =>
    refine ⟨rfl, fun i hi => ?_⟩
    rw [← Byte.getLsbD_shiftLeft_one_or v false hi]
    simp [rotResult]
  | sra =>
    refine ⟨rfl, fun i hi => ?_⟩
    rw [← Byte.getLsbD_ushiftRight_one_or v _ hi, ← Byte.and_80]
    rfl
  | swap =>
    refine ⟨rfl, fun i hi => ?_⟩
    simp only [rotResult, BitVec.getLsbD_or, BitVec.getLsbD_shiftLeft, BitVec.getLsbD_ushiftRight]
    by_cases h : i < 4
    · simp [h, show (i + 4) % 8 = 4 + i by omega]
    · simp [h, hi, show (i + 4) % 8 = i - 4 by omega, BitVec.getLsbD_of_ge v (4 + i) (by omega)]
  | srl =>
    refine ⟨rfl, fun i hi => ?_⟩
    rw [← Byte.getLsbD_ushiftRight_one_or v false hi]
    simp [rotResult]

theorem Byte.getLsbD_clearBit (v : Byte) (b : Fin 8) {i : Nat} (hi : i < 8) :
    (v &&& ~~~(1#8 <<< b.val)).getLsbD i = if i = b.val then false else v.getLsbD i := by
  rw [BitVec.getLsbD_and, BitVec.getLsbD_not, Byte.getLsbD_one_shiftLeft]
  by_cases h : i = b.val
  · simp [h]
  · simp [h, Ne.symm h, hi]

theorem Byte.getLsbD_setBit (v : Byte) (b : Fin 8) (i : Nat) :
    (v ||| (1#8 <<< b.val)).getLsbD i = if i = b.val then true else v.getLsbD i := by
  rw [BitVec.getLsbD_or, Byte.getLsbD_one_shiftLeft]
  by_cases h : i = b.val
  · simp [h]
  · simp [h, Ne.symm h]

/-! ## What the instructions leave -/

theorem ReadsOnly.nothingElse_nil {s u : State} (h : ReadsOnly s u) : NothingElse [] s u :=
  h.nothingElse [] (fun _ _ => .refl _) (.refl _) (.refl _) ReadsOnly.refl.controlKept ReadsOnly.refl.peripheralsKept (.refl _)

theorem State.writeLoc_f (o : Loc) (v : Byte) (s : State) : (s.writeLoc o v).f = s.f := by
  cases o with
  | reg r => exact State.setReg_f r v s
  | atHl => exact State.memWrite_f s.hl v s

theorem State.modifyLoc_f (o : Loc) (v : Byte) (s : State) : ((s.afterLoc o).writeLoc o v).f = s.f :=
  (State.writeLoc_f o v _).trans (s.afterLoc_f o)

/-! ## The operations of the family -/

theorem rotA_rotates (op : RotOp) (s : State) : ∃ c', RotBits op s.a (rotA op s).a s.flagC c' ∧
    HasFlags (rotA op s) false false false c' ∧ NothingElse [.a] s (rotA op s) :=
  ⟨_, rotResult_rotBits op s.a s.flagC, State.putFlags_hasFlags _ _ _ _ _,
    (ReadsOnly.refl.setReg_nothingElse .a _).putFlags _ _ _ _⟩

theorem rot_hasFlags (op : RotOp) (o : Loc) (s : State) :
    HasFlags (rot op o s) (decide ((rotResult op (s.locByte o) s.flagC).1.toNat = 0)) false false
      (rotResult op (s.locByte o) s.flagC).2 := by
  rw [← Byte.beq_zero]
  exact State.putFlags_hasFlags _ _ _ _ _

/-! ## The instructions of the family -/

/-- Settles O53: the accumulator forms and the 0xCB forms answer the same `rotResult`, and differ in the operand and in Z. -/
theorem rotatesAndShifts : Obligations.RotatesAndShifts := by
  refine ⟨fun i op hi s => ?_, fun op o s => ⟨_, _, _, exec_ofRot op o s, rotResult_rotBits op _ _,
    (s.modify_modifiesLoc o _).setFlags _, rot_hasFlags op o s⟩⟩
  obtain ⟨c', h⟩ := rotA_rotates op s
  have hexec : exec i s = .next (rotA op s) := by
    simp only [List.mem_cons, List.not_mem_nil, or_false, Prod.mk.injEq] at hi
    obtain ⟨rfl, rfl⟩ | ⟨rfl, rfl⟩ | ⟨rfl, rfl⟩ | ⟨rfl, rfl⟩ := hi <;> rfl
  exact ⟨_, c', hexec, h⟩

/-- Settles O54: BIT reads the operand and writes F; RES and SET write the operand back and leave F. -/
theorem bitInstructions : Obligations.BitInstructions :=
  fun b o s => ⟨⟨_, exec_ofBit b o s, State.putFlags_hasFlags _ _ _ _ _,
      (s.afterLoc_readsOnly o).nothingElse_nil.putFlags _ _ _ _⟩,
    ⟨_, _, exec_ofRes b o s, s.modify_modifiesLoc o _, s.modifyLoc_f o _, fun _ hi => Byte.getLsbD_clearBit _ b hi⟩,
    ⟨_, _, exec_ofSet b o s, s.modify_modifiesLoc o _, s.modifyLoc_f o _, fun i _ => Byte.getLsbD_setBit _ b i⟩⟩

end Sys2Proof.Machine
end

