-- ==== Sys2Proof/Proofs/Control.lean ====
section
/-! PROOFS. The family of 45_control.md: what a condition decides, what a call and a return change and leave, that a return
undoes a call, and the instructions that transfer control. -/
namespace Sys2Proof.Machine

/-! ## Conditions -/

/-- The model's condition is the one the statements name (45_control.md R170). -/
theorem State.cond_eq_condHolds (cc : Cond) (s : State) : s.cond cc = condHolds cc s := by
  cases cc <;> simp [State.cond, condHolds]

theorem ifCond_eq (cc : Cond) (f : State → State) (s : State) : ifCond cc f s = if condHolds cc s then f s else s := by
  rw [ifCond, State.cond_eq_condHolds]

theorem ifCond_taken {cc : Cond} {s : State} (h : condHolds cc s = true) (f : State → State) : ifCond cc f s = f s := by
  rw [ifCond_eq, if_pos h]

theorem ifCond_notTaken {cc : Cond} {s : State} (h : condHolds cc s = false) (f : State → State) : ifCond cc f s = s := by
  rw [ifCond_eq, if_neg (by simp [h])]

/-! ## Plain cells -/

theorem State.PlainCell.readByte {s : State} {addr : Word} (h : s.PlainCell addr) : s.readByte addr = s.peek addr := by
  obtain ⟨hlock, -, -⟩ := h
  exact State.readByte_unlocked hlock

theorem State.PlainCell.afterRead {s : State} {addr : Word} (h : s.PlainCell addr) : s.afterRead addr = s := by
  obtain ⟨-, -, hkind⟩ := h
  exact State.afterRead_of_not_external (by simp [hkind])

/-- The lock is the DMA engine's, the core registers are the parameters', and the kinds of address are the bus map's. -/
theorem State.PlainCell.of_kept {s t : State} {addr : Word} (h : s.PlainCell addr) (hctl : ControlKept s t)
    (hper : PeripheralsKept s t) : t.PlainCell addr := by
  obtain ⟨-, -, -, -, -, -, -, -, hcfg, -, hmap⟩ := hctl
  obtain ⟨-, -, -, hdma, -⟩ := hper
  simpa only [State.PlainCell, State.busLocked, State.coreReg, State.busKind, hcfg, hmap, hdma] using h

/-! ## Calls -/

/-- A call pushes PC, and PC plays no part in what a push leaves. -/
theorem call_pushes (t : Word) (s : State) : Pushes s.pc s (call t s) := by
  obtain ⟨hsp, hstored, -, hf, hframe, hpeek⟩ := s.push16_pushes s.pc
  exact ⟨hsp, hstored, call_regsKept t s, hf, hframe, hpeek⟩

/-- The target of `RST` is its three-bit field times 8 (45_control.md R181). -/
theorem rst_pc_toNat (y : Fin 8) (s : State) : (rst y s).pc.toNat = 8 * y.val :=
  Nat.mod_eq_of_lt (by omega)

/-! ## Returns -/

theorem State.setPc_regsKept (t : Word) (s : State) : RegsKept [] s { s with pc := t } :=
  fun r _ => by cases r <;> rfl

/-- What a return changes and leaves: it is `pop16`, and then a write of PC. -/
theorem ret_pops (s : State) : (ret s).pc = s.popWord ∧ (ret s).sp = s.sp + 2 ∧ (ret s).f = s.f ∧ RegsKept [] s (ret s) ∧
    ControlKept s (ret s) ∧ PeripheralsKept s (ret s) ∧ OtherBytesKept [] s (ret s) := by
  obtain ⟨hsp, -, hf, hregs, hctl, hper, hbytes⟩ := s.afterPop_frame
  exact ⟨rfl, hsp, hf, hregs.trans (State.setPc_regsKept s.popWord _), hctl, hper, hbytes⟩

/-! The return from an interrupt is a return that also writes IME and the pending enable (45_control.md R180). -/

theorem State.returnFromInterrupt_regsKept (s : State) : RegsKept [] s s.returnFromInterrupt := by
  obtain ⟨-, -, -, hregs, -⟩ := ret_pops s
  intro r hr
  rw [← hregs r hr]
  cases r <;> rfl

theorem State.returnFromInterrupt_controlKept (s : State) :
    ControlKept { s with ime := true, eiPending := false } s.returnFromInterrupt := by
  obtain ⟨-, -, -, -, ⟨hrun, -, -, hrest⟩, -⟩ := ret_pops s
  exact ⟨hrun, rfl, rfl, hrest⟩

/-- Popping from plain memory reads the two bytes and moves SP, and does nothing else. -/
theorem ret_of_plain {s : State} (hlo : s.PlainCell s.sp) (hhi : s.PlainCell (s.sp + 1)) :
    ret s = { s with sp := s.sp + 2, pc := mkWord (s.peek (s.sp + 1)) (s.peek s.sp) } := by
  simp only [ret, State.afterPop, State.popWord, hlo.afterRead, hhi.afterRead, hlo.readByte, hhi.readByte]

/-! ## A return after a call -/

/-- The two stores of a push, high byte first, without the move of SP (00_scope.md R14). -/
def State.storeBelowSp (v : Word) (s : State) : State :=
  State.memWrite (s.sp - 2) (loByte v) (s.memWrite (s.sp - 1) (hiByte v))

theorem call_eq (t : Word) (s : State) : call t s = { s.storeBelowSp s.pc with sp := s.sp - 2, pc := t } := by
  rw [call, State.push16_eq, State.storeBelowSp]

theorem State.storeBelowSp_writesOnly (v : Word) (s : State) : WritesOnly s (s.storeBelowSp v) :=
  (s.memWrite_writesOnly (s.sp - 1) (hiByte v)).trans (State.memWrite_writesOnly (s.sp - 2) (loByte v) _)

theorem State.storeBelowSp_storeFrame (v : Word) (s : State) : StoreFrame [s.sp - 1, s.sp - 2] s (s.storeBelowSp v) :=
  (s.memWrite_storeFrame (s.sp - 1) (hiByte v)).trans (State.memWrite_storeFrame (s.sp - 2) (loByte v) _)
    (s.memWrite_writesOnly (s.sp - 1) (hiByte v))

/-- Stores change neither SP nor PC, so putting them back changes nothing. -/
theorem WritesOnly.restore_sp_pc {s t : State} (h : WritesOnly s t) : { t with sp := s.sp, pc := s.pc } = t := by
  rw [← h.sp, ← h.pc]

/-- The frame of stores to plain memory speaks of the core's registers without a premise. -/
theorem StoreFrame.peripheralsKept {x y : Word} {s t : State} (h : StoreFrame [x, y] s t) (hx : s.PlainCell x)
    (hy : s.PlainCell y) : PeripheralsKept s t := by
  obtain ⟨-, -, hper⟩ := h
  obtain ⟨-, hxReg, -⟩ := hx
  obtain ⟨-, hyReg, -⟩ := hy
  exact hper (by simp [hxReg, hyReg])

/-- On a stack of plain memory the return reads the two bytes just stored, so PC and SP come back and only the stores stay. -/
theorem ret_call {s : State} (t : Word) (hhi : s.PlainCell (s.sp - 1)) (hlo : s.PlainCell (s.sp - 2)) :
    ret (call t s) = s.storeBelowSp s.pc := by
  obtain ⟨hsp, -, -, -, hframe, hpeek⟩ := call_pushes t s
  obtain ⟨hpeekHi, hpeekLo⟩ := hpeek hhi hlo
  have hper := hframe.peripheralsKept hhi hlo
  obtain ⟨hctl, -, -⟩ := hframe
  have hnext : (call t s).sp + 1 = s.sp - 1 := by rw [hsp]; bv_omega
  have hback : (call t s).sp + 2 = s.sp := by rw [hsp]; bv_omega
  have hlo' : (call t s).PlainCell (call t s).sp := by rw [hsp]; exact hlo.of_kept hctl hper
  have hhi' : (call t s).PlainCell ((call t s).sp + 1) := by rw [hnext]; exact hhi.of_kept hctl hper
  rw [ret_of_plain hlo' hhi', hback, hnext, hsp, hpeekHi, hpeekLo, mkWord_hi_lo, call_eq]
  exact (s.storeBelowSp_writesOnly s.pc).restore_sp_pc

/-! ## The instructions of the family -/

theorem exec_callNn (nn : Word) (s : State) : exec (.callNn nn) s = .next (call nn s) := rfl

theorem exec_ret (s : State) : exec .ret s = .next (ret s) := rfl

/-- Settles O58: all that is left of a call and its return is the two stores. -/
theorem callThenReturn : Obligations.CallThenReturn := by
  intro s nn hhi hlo
  have hw := s.storeBelowSp_writesOnly s.pc
  have hper := (s.storeBelowSp_storeFrame s.pc).peripheralsKept hhi hlo
  obtain ⟨hctl, hbytes, -⟩ := s.storeBelowSp_storeFrame s.pc
  have hret : exec .ret (call nn s) = .next (s.storeBelowSp s.pc) := by rw [exec_ret, ret_call nn hhi hlo]
  exact ⟨call nn s, s.storeBelowSp s.pc, exec_callNn nn s, hret, hw.pc, hw.sp, hw.f, fun r _ => hw.getReg r, hctl,
    hper, hbytes⟩

/-- Settles O55: each instruction is a write of PC, under its condition where it has one. -/
theorem jumps : Obligations.Jumps :=
  fun s => ⟨fun _ => rfl, rfl, fun e => ⟨s.pc + sext16 e, rfl, add_sext16_toNat s.pc e⟩,
    fun cc nn => (exec_ofJp cc nn s).trans (congrArg _ (ifCond_eq cc (jump nn) s)),
    fun cc e => ⟨s.pc + sext16 e, (exec_ofJr cc e s).trans (congrArg _ (ifCond_eq cc (jumpRel e) s)),
      add_sext16_toNat s.pc e⟩⟩

/-- Settles O56: each instruction is `call`, which pushes PC, under its condition where it has one. -/
theorem calls : Obligations.Calls := by
  intro s
  refine ⟨fun nn => ⟨call nn s, exec_callNn nn s, call_pushes nn s, rfl⟩,
    fun y => ⟨rst y s, exec_ofRst y s, call_pushes _ s, rst_pc_toNat y s⟩,
    fun cc nn => ⟨callCond cc nn s, exec_ofCall cc nn s, fun hcc => ifCond_notTaken hcc _, fun hcc => ?_⟩⟩
  rw [callCond, ifCond_taken hcc]
  exact ⟨call_pushes nn s, rfl⟩

/-- Settles O57: RET and RETI pop PC, RET under its condition where it has one, and RETI also writes the control state. -/
theorem returns : Obligations.Returns := by
  rintro s _ rfl
  have hret := ret_pops s
  refine ⟨⟨ret s, exec_ret s, hret⟩,
    fun cc => ⟨retCond cc s, exec_ofRet cc s, fun hcc => ifCond_notTaken hcc _, fun hcc => ?_⟩, ?_⟩
  · rw [retCond, ifCond_taken hcc]
    exact hret
  · obtain ⟨hpc, hsp, hf, -, -, hper, hbytes⟩ := hret
    exact ⟨s.returnFromInterrupt, rfl, hpc, hsp, rfl, rfl, hf, s.returnFromInterrupt_regsKept,
      s.returnFromInterrupt_controlKept, hper, hbytes⟩

end Sys2Proof.Machine
end

