-- ==== Sys2Proof/Proofs/System.lean ====
section
/-! PROOFS. The family of 46_system.md: when a Processor step faults; how a step runs the instruction it fetched, with and without
the halt bug; and the effects of the system instructions. -/
namespace Sys2Proof.Machine

/-! ## The fetch -/

/-- The opcode fetch reads the byte at PC and consumes the halt-bug flag, which keeps PC (46_system.md R187). -/
theorem State.fetchOpcode_eq (s : State) : s.fetchOpcode =
    (s.readByte s.pc, (s.afterRead s.pc).withFetch (if s.haltBug then s.pc else s.pc + 1) false s.pc) := by
  cases hb : s.haltBug <;> simp [State.fetchOpcode, State.withFetch, hb]

/-- The fetch of a one-byte instruction ends with its opcode byte. -/
theorem State.fetchInstr_oneByte {s : State} (h : operandCount (s.readByte s.pc) = 0) :
    s.fetchInstr = ([s.readByte s.pc], s.fetchOpcode.2) := by
  simp only [State.fetchInstr, s.fetchOpcode_eq, h, State.fetchBytes]

/-- Under the halt bug the operand bytes are read from the opcode's own address on (46_system.md R187). -/
theorem State.fetchInstr_haltBugFetch {s : State} {op : Byte} {operands : List Byte} (hb : s.haltBug = true)
    (hlen : operands.length = operandCount op) (hop : s.readByte s.pc = op)
    (hbytes : (s.afterRead s.pc).BytesAt s.pc operands) :
    s.fetchInstr = (op :: operands, ((s.afterRead s.pc).afterReads s.pc operands.length).withFetch
      (s.pc + BitVec.ofNat 16 operands.length) false s.pc) := by
  have hopcode : s.fetchOpcode = (op, (s.afterRead s.pc).withFetch s.pc false s.pc) := by
    rw [s.fetchOpcode_eq, hop, if_pos hb]
  have hrest := State.fetchBytes_of_bytesAt operands ((s.afterRead s.pc).withFetch s.pc false s.pc)
    ((State.bytesAt_withFetch _ _ _ _ _ _).mpr hbytes)
  rw [hlen] at hrest
  simp only [State.fetchInstr, hopcode, hrest, hlen]
  rw [show ((s.afterRead s.pc).withFetch s.pc false s.pc).pc = s.pc from rfl, State.afterReads_withFetch]
  rfl

/-! ## The step of a fetched instruction -/

/-- A fetch that reads a well-formed instruction's encoding makes the step that instruction's meaning, from the state the fetch
leaves (60_exceptions.md R201, R202). -/
theorem procStep_of_fetch {s u t : State} {i : Instr} (hs : s.AtInstruction) (hwf : i.wellFormed = true)
    (hfetch : s.fetchInstr = (encode i, u)) (hexec : exec i u = .next t) :
    procStep s = .next (if t.fault.isSome then (0, t)
      else (instrCost s.cfg i (s.taken i), t.finishInstr s.eiPending)) := by
  have hdecode : decode (encode i) = .instr i [] := by
    simpa only [List.append_nil] using decodeOfEncode i hwf []
  have hkept := s.fetchInstr_fetchOnly
  rw [hfetch] at hkept
  obtain ⟨n, pc, hb, oa, rfl⟩ := hkept
  rw [procStep_instruction hs]
  simp only [State.instrStep, hfetch, hdecode, hexec]
  split <;> rfl

/-- The step of the machine that fetches a well-formed instruction's encoding (60_exceptions.md R275). -/
theorem step_of_fetch {s u t : State} {i : Instr} (hs : s.hostPhase.AtInstruction) (hwf : i.wellFormed = true)
    (hfetch : s.hostPhase.fetchInstr = (encode i, u)) (hexec : exec i u = .next t) :
    step s = .next (afterInstr s.hostPhase.eiPending (instrCost s.hostPhase.cfg i (s.hostPhase.taken i)) t) := by
  have hproc := procStep_of_fetch hs hwf hfetch hexec
  by_cases hfault : t.fault.isSome = true
  · rw [if_pos hfault] at hproc
    rw [afterInstr, if_pos hfault]
    exact step_of_procStep hproc
  · rw [if_neg hfault] at hproc
    rw [afterInstr, if_neg hfault]
    exact step_of_procStep hproc

/-- Settles O10: the fetch reads the instruction's encoding and leaves PC past the operand bytes only. -/
theorem haltBugFetch : Obligations.HaltBugFetch := by
  rintro s _ i op operands rfl hs hb hwf hencode hop hbytes u hu
  have hlen : operands.length = operandCount op := by
    obtain ⟨op', operands', hencode', hlen', -⟩ := decodeOperands_encode hwf
    obtain ⟨rfl, rfl⟩ := List.cons.inj (hencode.symm.trans hencode')
    exact hlen'
  have hfetch : s.hostPhase.fetchInstr = (encode i, u) := by
    rw [hencode, hu]
    exact State.fetchInstr_haltBugFetch hb hlen hop hbytes
  obtain ⟨t, hexec, -⟩ := exec_effect i u
  rw [step_of_fetch hs hwf hfetch hexec, hexec]

/-! ## Faults -/

/-- An unassigned opcode byte selects no operand and is read as its own row (30_encoding.md R80). -/
theorem operandCount_unassignedByte (u : Unassigned) : operandCount (unassignedByte u) = 0 := by
  cases u <;> rfl

theorem decodeOp_unassignedByte (u : Unassigned) (b1 b2 : Byte) : decodeOp (unassignedByte u) b1 b2 = .ofUnassigned u := by
  cases u <;> rfl

theorem encode_ofUnassigned (u : Unassigned) : encode (.ofUnassigned u) = [unassignedByte u] := by
  cases u <;> rfl

/-- An instruction read as an unassigned one has that one's opcode byte. -/
theorem opcode_of_unassigned {op b1 b2 : Byte} {u : Unassigned} (h : decodeOp op b1 b2 = .ofUnassigned u) :
    op = unassignedByte u :=
  decodeOp_head (b1 := b1) (b2 := b2) (rest := []) (by rw [h, encode_ofUnassigned])

theorem ControlKept.fault {s t : State} (h : ControlKept s t) : t.fault = s.fault := by
  obtain ⟨-, -, -, -, -, -, hfault, -⟩ := h
  exact hfault

@[simp] theorem haltEffect_fault (s : State) : (haltEffect s).fault = s.fault := by
  unfold haltEffect
  split
  · rfl
  · split <;> rfl

@[simp] theorem stopEffect_fault (s : State) : (stopEffect s).fault = s.fault := by
  unfold stopEffect
  split <;> rfl

@[simp] theorem State.haltedStep_fault (s : State) : s.haltedStep.fault = s.fault := by
  unfold State.haltedStep
  split <;> rfl

@[simp] theorem State.stoppedStep_fault (s : State) : s.stoppedStep.fault = s.fault := by
  unfold State.stoppedStep
  split <;> rfl

@[simp] theorem State.dispatchCycle_fault (s : State) : s.dispatchCycle.fault = s.fault := by
  obtain ⟨-, -, -, hfault⟩ := s.dispatchCycle_keeps
  exact hfault

@[simp] theorem State.finishInstr_fault (armed : Bool) (s : State) : (s.finishInstr armed).fault = s.fault := by
  rw [State.finishInstr_keeps]

/-- Only an unassigned opcode records a fault as an instruction's meaning. -/
theorem Effect.unassigned_of_fault {s t : State} {i : Instr} (he : Effect s i t) (h : t.fault ≠ s.fault) :
    ∃ u, i = .ofUnassigned u := by
  cases he with
  | ordinary _ _ ho => exact absurd ho.control.fault h
  | halt => exact absurd (haltEffect_fault s) h
  | stop x => exact absurd (stopEffect_fault s) h
  | di => exact absurd rfl h
  | ei => exact absurd rfl h
  | reti => exact absurd s.afterPop_ordinary.control.fault h
  | unassigned u => exact ⟨u, rfl⟩

/-- A Processor move records a fault only where it runs an unassigned opcode (46_system.md R192). -/
theorem ProcMove.faults {s t : State} {n : Nat} (h : ProcMove s n t) (h0 : s.fault = none) (h1 : t.fault ≠ none) :
    s.AtInstruction ∧ ∃ u, s.readByte s.pc = unassignedByte u := by
  have raised : t.fault ≠ s.fault := by rwa [h0]
  cases h with
  | faulted _ => exact absurd rfl raised
  | dispatch _ _ => exact absurd s.dispatchCycle_fault raised
  | halted _ _ _ => exact absurd s.haltedStep_fault raised
  | stopped _ _ _ => exact absurd s.stoppedStep_fault raised
  | dispatchStart _ _ _ _ => exact absurd (State.dispatchCycle_fault _) raised
  | faultingInstr b1 b2 _ hs he _ =>
    have hfetch : s.fetchInstr.2.fault = s.fault := by
      obtain ⟨n, pc, hb, oa, e⟩ := s.fetchInstr_fetchOnly
      rw [e]
    obtain ⟨u, hu⟩ := he.unassigned_of_fault (by rwa [hfetch])
    exact ⟨hs, u, opcode_of_unassigned hu⟩
  | instr b1 b2 u _ _ hu => exact absurd ((u.finishInstr_fault _).trans hu) h1

/-- The fetch of an unassigned opcode reads its one byte. -/
theorem State.fetchInstr_unassigned {s : State} {u : Unassigned} (hop : s.readByte s.pc = unassignedByte u) :
    s.fetchInstr = (encode (.ofUnassigned u),
      (s.afterRead s.pc).withFetch (if s.haltBug then s.pc else s.pc + 1) false s.pc) := by
  rw [State.fetchInstr_oneByte (by rw [hop, operandCount_unassignedByte]), s.fetchOpcode_eq, hop, encode_ofUnassigned]

/-- The meaning of an unassigned opcode puts PC back to where the opcode was read, wherever the fetch left it (46_system.md
R192). -/
theorem illegal_withFetch (u : Unassigned) (s : State) (pc : Word) : illegal u ((s.afterRead s.pc).withFetch pc false s.pc) =
    { s.afterRead s.pc with
      fault := some (.illegalOpcode s.pc (unassignedByte u)), haltBug := false, opAddr := s.pc } := by
  simp [illegal, State.illegalOpcode, State.raise, State.withFetch]

/-- Settles O13: the step of an unassigned opcode is its meaning after its fetch, and no other move records a fault. -/
theorem faultOnlyFromUnassignedOpcode : Obligations.FaultOnlyFromUnassignedOpcode := by
  refine ⟨fun s u hs hop => ?_, fun s t n h0 h h1 => (procStep_move h).faults h0 h1⟩
  have hwf : (Instr.ofUnassigned u).wellFormed = true := by cases u <;> rfl
  rw [procStep_of_fetch hs hwf (State.fetchInstr_unassigned hop) (exec_ofUnassigned u _), illegal_withFetch]
  rfl

/-! ## The effects of the system instructions -/

theorem haltEffect_of_not_pending {s : State} (h : s.pending = 0) : haltEffect s = { s with runState := .halted } := if_pos h

/-- The halt bug (46_system.md R186). -/
theorem haltEffect_of_pending_ime_off {s : State} (h : s.pending ≠ 0) (hime : s.ime = false) :
    haltEffect s = { s with haltBug := true } :=
  (if_neg h).trans (if_pos hime)

theorem haltEffect_of_pending_ime_on {s : State} (h : s.pending ≠ 0) (hime : s.ime = true) : haltEffect s = s :=
  (if_neg h).trans (if_neg (by simp [hime]))

/-- A write to 0xFF04 is `WriteDIV`, whatever the byte (10_state.md R33, 60_exceptions.md R244). -/
theorem State.memWrite_div (v : Byte) (s : State) : s.memWrite 0xFF04 v = { s with timer := s.timer.writeDiv } := by
  obtain ⟨-, -, hwrite⟩ := State.coreReg_access (s := s) (addr := 0xFF04) (r := .div) (by decide) rfl
  exact hwrite v

theorem Timer.writeDiv_divider (t : Timer) : t.writeDiv.divider = 0 := by
  unfold Timer.writeDiv
  split
  · exact (Timer.incrementTima_keeps _).1
  · rfl

theorem stopEffect_of_resets {s : State} (h : s.cfg.stopResetsDivider = true) :
    stopEffect s = { s.memWrite 0xFF04 0 with runState := .stopped } := by
  rw [s.memWrite_div, stopEffect, if_pos h]

theorem stopEffect_of_not_resets {s : State} (h : s.cfg.stopResetsDivider = false) :
    stopEffect s = { s with runState := .stopped } := if_neg (by simp [h])

/-- The row of the second byte after 0xCB means the rule that this byte selects (46_system.md R191), table by table of
30_encoding.md R78. -/
theorem exec_decodeCb (op2 : Byte) (s : State) : exec (decodeCb op2) s = .next (cbEffect op2 s) := by
  unfold decodeCb cbEffect
  match fieldX op2 with
  | 0 => exact exec_ofRot _ _ s
  | 1 => exact exec_ofBit _ _ s
  | 2 => exact exec_ofRes _ _ s
  | 3 => exact exec_ofSet _ _ s

theorem exec_stop (x : Byte) (s : State) : exec (.stop x) s = .next (stopEffect s) := rfl

/-- Settles O59: HALT by whether an interrupt is pending and IME, STOP by its parameter, the prefix by its second byte, and an
unassigned opcode from the address its fetch recorded. -/
theorem systemInstructions : Obligations.SystemInstructions := by
  intro s
  have halt : exec .halt s = .next (haltEffect s) := rfl
  refine ⟨rfl, fun h => ?_, fun h hime => ?_, fun h hime => ?_, fun x h => ?_, fun x h => ?_, rfl, rfl,
    fun op2 => ⟨cbEffect op2 s, rfl, exec_decodeCb op2 s⟩, fun u => exec_ofUnassigned u s⟩
  · rw [halt, haltEffect_of_not_pending h]
  · rw [halt, haltEffect_of_pending_ime_off h hime]
  · rw [halt, haltEffect_of_pending_ime_on h hime]
  · refine ⟨stopEffect s, exec_stop x s, stopEffect_of_resets h, ?_⟩
    rw [stopEffect_of_resets h, s.memWrite_div]
    exact s.timer.writeDiv_divider
  · rw [exec_stop, stopEffect_of_not_resets h]

end Sys2Proof.Machine
end

section
/-! PROOFS. The family of 60_exceptions.md: interrupts and their dispatch; how a step runs an instruction, waits, or stays faulted;
the timer's tick, its reload sequence and its rate; and the OAM-DMA and HDMA engines. -/
namespace Sys2Proof.Machine

/-! ## Interrupts: IE, IF and what is pending -/

theorem getLsbD_setBit (x : BitVec 5) (k : Nat) {j : Nat} (hj : j < 5) :
    (x ||| (1#5 <<< k)).getLsbD j = (x.getLsbD j || decide (j = k)) := by
  have hbit : (1#5 <<< k).getLsbD j = decide (j = k) := by
    rw [BitVec.getLsbD_shiftLeft, BitVec.getLsbD_one]
    simp only [hj, decide_true, Bool.true_and, Nat.zero_lt_succ, ← decide_not, ← Bool.decide_and]
    exact decide_eq_decide.mpr (by omega)
  rw [BitVec.getLsbD_or, hbit]

/-- A bit that is already set. -/
theorem setBit_of_set {x : BitVec 5} {k : Nat} (h : x.getLsbD k = true) : x ||| (1#5 <<< k) = x := by
  apply BitVec.eq_of_getLsbD_eq
  intro j hj
  rw [getLsbD_setBit x k hj]
  by_cases e : j = k
  · simp [e, h]
  · simp [e]

theorem State.requestInterrupt_source {s : State} {k : Nat} (hk : k ≤ 4) :
    s.requestInterrupt k = { s with ifl := s.ifl ||| (1#5 <<< k) } := if_pos hk

/-- Settles O19: a request ORs one bit into IF, or is recorded as a fault. -/
theorem requestInterrupt : Obligations.RequestInterrupt := by
  intro s k
  refine ⟨fun hk => ?_, fun hk hset => ?_, fun hk => if_neg (by omega)⟩
  · rw [State.requestInterrupt_source hk]
    exact ⟨rfl, fun j hj => getLsbD_setBit s.ifl k hj⟩
  · rw [State.requestInterrupt_source hk, setBit_of_set hset]

/-- An interrupt is pending when its bits of IE and IF are both 1 (60_exceptions.md R213). -/
theorem State.pending_getLsbD (s : State) {j : Nat} (hj : j < 5) :
    s.pending.getLsbD j = (s.ie.getLsbD j && s.ifl.getLsbD j) := by
  simp [State.pending, hj]

/-- Settles O20: 0xFFFF is a core register, past any lock. -/
theorem interruptEnableRegister : Obligations.InterruptEnableRegister := by
  intro s v
  obtain ⟨hread, hkeep, hwrite⟩ := State.coreReg_access (s := s) (addr := 0xFFFF) (r := .ie) (by decide) rfl
  refine ⟨hread, hkeep, hwrite v, fun j hj => ?_⟩
  rw [hwrite, State.pending_getLsbD _ hj]
  rfl

/-- IF reads with ones in its unused bits (60_exceptions.md R212). -/
theorem ifl_read_bits (x : BitVec 5) :
    ∀ j < 8, (0xE0 ||| x.zeroExtend 8 : Byte).getLsbD j = if j < 5 then x.getLsbD j else true := by
  revert x
  decide

/-- Settles O21: 0xFF0F is a core register, past any lock, of which five bits are stored. -/
theorem interruptFlagRegister : Obligations.InterruptFlagRegister := by
  intro s v
  obtain ⟨hread, hkeep, hwrite⟩ := State.coreReg_access (s := s) (addr := 0xFF0F) (r := .ifReg) (by decide) rfl
  rw [hread, hwrite]
  refine ⟨ifl_read_bits s.ifl, hkeep, rfl, fun j hj => ?_⟩
  simp [State.writeCoreReg, hj]

theorem IntSource.forall_iff {P : IntSource → Prop} :
    (∀ k, P k) ↔ P .vblank ∧ P .lcdStat ∧ P .timer ∧ P .serial ∧ P .joypad :=
  ⟨fun h => ⟨h _, h _, h _, h _, h _⟩, fun ⟨h0, h1, h2, h3, h4⟩ k => by cases k <;> assumption⟩

theorem IntSource.bit_lt (k : IntSource) : k.bit < 5 := by
  cases k <;> decide

theorem lowestPending_eq_some (p : BitVec 5) (k : IntSource) : lowestPending p = some k ↔
    p.getLsbD k.bit = true ∧ ∀ j : IntSource, j.bit < k.bit → p.getLsbD j.bit = false := by
  cases k <;> simp [lowestPending, IntSource.forall_iff, IntSource.bit, ite_eq_iff, and_comm, and_assoc]

theorem lowestPending_eq_none (p : BitVec 5) : lowestPending p = none ↔ p = 0 := by
  revert p
  decide

/-- Settles O17: a source is the lowest pending one exactly when its bit is set and no bit below it is, and M4 stores that
source. -/
theorem interruptPriority : Obligations.InterruptPriority := by
  refine ⟨lowestPending_eq_some, lowestPending_eq_none, fun s k => ?_, fun s h => ?_⟩
  · rw [s.pending_getLsbD k.bit_lt, Bool.and_eq_true]
  · rw [State.dispatchCycle_m4 h]
    exact State.memWrite_dispatchBit _ _ _

/-! ## Taking an interrupt -/

theorem IntSource.vector_toNat (k : IntSource) : k.vector.toNat = 0x0040 + 8 * k.bit := by
  cases k <;> rfl

/-- What no M-cycle of a dispatch changes (60_exceptions.md R221, R223). -/
structure DispatchKept (s t : State) : Prop where
  regs : RegsKept [] s t
  f : t.f = s.f
  runState : t.runState = s.runState
  fault : t.fault = s.fault
  cfg : t.cfg = s.cfg
  hostScript : t.hostScript = s.hostScript
  opAddr : t.opAddr = s.opAddr
  map : t.bus.map = s.bus.map

theorem DispatchKept.trans {s t u : State} (h1 : DispatchKept s t) (h2 : DispatchKept t u) : DispatchKept s u :=
  ⟨h1.regs.trans h2.regs, h2.f.trans h1.f, h2.runState.trans h1.runState, h2.fault.trans h1.fault, h2.cfg.trans h1.cfg,
    h2.hostScript.trans h1.hostScript, h2.opAddr.trans h1.opAddr, h2.map.trans h1.map⟩

theorem State.dispatchCycle_kept (s : State) : DispatchKept s s.dispatchCycle := by
  obtain ⟨hregs, hf, hrun, hfault⟩ := s.dispatchCycle_keeps
  refine ⟨hregs, hf, hrun, hfault, ?_, ?_, ?_, ?_⟩
  all_goals
    cases hd : s.dispatchStage with
    | idle => simp [State.dispatchCycle, hd]
    | m1 => rw [State.dispatchCycle_m1 hd]
    | m2 => rw [State.dispatchCycle_m2 hd]
    | m3 => simp [State.dispatchCycle_m3 hd]
    | m4 => simp [State.dispatchCycle_m4 hd]
    | m5 => rw [State.dispatchCycle_m5 hd]

/-- An M-cycle that pushes the byte `v` and goes on to `stage`. -/
structure DispatchPushes (v : Byte) (stage : DispatchStage) (s t : State) : Prop where
  stage : t.dispatchStage = stage
  sp : t.sp = s.sp - 1
  pc : t.pc = s.pc
  ime : t.ime = s.ime
  haltBug : t.haltBug = s.haltBug
  stored : StoredAs (s.memWrite (s.sp - 1) v) t

theorem State.dispatchCycle_m3_pushes {s : State} (h : s.dispatchStage = .m3) :
    DispatchPushes (hiByte s.pc) .m4 s s.dispatchCycle := by
  have hstored : StoredAs s { s with sp := s.sp - 1 } := .refl s
  rw [State.dispatchCycle_m3 h]
  exact ⟨rfl, by simp, by simp, by simp, by simp, hstored.memWrite rfl _ _⟩

theorem State.dispatchCycle_m4_pushes {s : State} (h : s.dispatchStage = .m4) :
    DispatchPushes (loByte s.pc) .m5 s s.dispatchCycle ∧ s.dispatchCycle.dispatchBit = lowestPending s.pending := by
  have hstored : StoredAs s { s with sp := s.sp - 1, dispatchBit := lowestPending s.pending } := .refl s
  rw [State.dispatchCycle_m4 h]
  exact ⟨⟨rfl, by simp, by simp, by simp, by simp, hstored.memWrite rfl _ _⟩, by simp⟩

/-- The state after M1 and M2 of a dispatch that will push `ret` (60_exceptions.md R221). -/
def State.readyToPush (ret : Word) (s : State) : State := { s with pc := ret, haltBug := false, dispatchStage := .m3 }

/-- M1 and M2: the return address is PC, or the HALT's address under the halt bug (60_exceptions.md R224). -/
theorem procStep_toReadyToPush {s : State} {ret : Word} (hf : s.fault = none) (hd : s.dispatchStage = .idle)
    (hr : s.runState = .running) (hg : s.eligible = true) (hret : ret = if s.haltBug then s.pc - 1 else s.pc) :
    ∃ s1, procStep s = .next (4, s1) ∧ procStep s1 = .next (4, s.readyToPush ret) := by
  have hm1 : State.dispatchCycle { s with dispatchStage := .m1 } =
      { s with pc := ret, haltBug := false, dispatchStage := .m2 } := by
    rw [hret]
    exact State.dispatchCycle_m1 rfl
  have hm2 : procStep { s with pc := ret, haltBug := false, dispatchStage := .m2 } = .next (4, s.readyToPush ret) := by
    rw [procStep_dispatch (by exact hf) (by simp), State.dispatchCycle_m2 rfl, State.readyToPush]
  refine ⟨_, ?_, hm2⟩
  rw [procStep_dispatchStart hf hd hr hg, hm1]

/-- An eligible interrupt has a lowest source. -/
theorem State.lowestPending_of_eligible {s : State} (h : s.eligible = true) : ∃ k, lowestPending s.pending = some k := by
  rw [← Option.ne_none_iff_exists', Ne, lowestPending_eq_none]
  simp only [State.eligible, Bool.and_eq_true, bne_iff_ne] at h
  exact h.2

/-- A byte of plain memory of one state, peeked in a later one. -/
theorem State.peek_plain {s t : State} {addr : Word} (hreg : s.coreReg addr = none) (hkind : s.busKind addr = .plain)
    (hc : t.cfg = s.cfg) (hm : t.bus.map = s.bus.map) : t.peek addr = t.bus.mem.read addr.toNat := by
  have hreg' : t.coreReg addr = none := by rw [State.coreReg, hc]; exact hreg
  have hkind' : t.busKind addr = .plain := by rw [State.busKind, hm]; exact hkind
  rw [State.peek_bus hreg', State.busByte_plain hkind']

/-- What a dispatch leaves on a plain stack: the two stores of a push, of which `s3` has made the first and `t` both. -/
theorem dispatch_plainStack {s s3 t : State} {ret : Word} (h3 : StoredAs (s.memWrite (s.sp - 1) (hiByte ret)) s3)
    (ht : t.bus = (s.storeBelowSp ret).bus) (hc : t.cfg = s.cfg) (hhi : s.PlainCell (s.sp - 1)) (hlo : s.PlainCell (s.sp - 2)) :
    s3.pending = s.pending ∧ t.peek (s.sp - 1) = hiByte ret ∧ t.peek (s.sp - 2) = loByte ret ∧
      ∀ x, x ≠ s.sp - 1 → x ≠ s.sp - 2 → t.bus.mem.read x.toNat = s.bus.mem.read x.toNat := by
  have hw := s.storeBelowSp_writesOnly ret
  have hpeek (x : Word) (hx : s.PlainCell x) : t.peek x = (s.storeBelowSp ret).peek x := by
    obtain ⟨-, hreg, hkind⟩ := hx
    rw [State.peek_plain hreg hkind hc (ht ▸ hw.2), State.peek_plain hreg hkind hw.cfg hw.2, ht]
  obtain ⟨hpeekHi, hpeekLo, -, hother⟩ :=
    s.memWrite_two (s.sp - 1) (s.sp - 2) (hiByte ret) (loByte ret) hhi hlo (Word.below_ne _) rfl
  have hpeekHi' := (hpeek _ hhi).trans hpeekHi
  have hpeekLo' := (hpeek _ hlo).trans hpeekLo
  obtain ⟨-, hreg, -⟩ := hhi
  obtain ⟨hie, hifl, -⟩ := s.memWrite_peripherals (s.sp - 1) (hiByte ret) hreg
  obtain ⟨-, hie3, hifl3, -⟩ := h3
  refine ⟨?_, hpeekHi', hpeekLo', fun x h1 h2 => ?_⟩
  · rw [State.pending, State.pending, hie3, hifl3, hie, hifl]
  · rw [ht]
    exact hother x h1 h2

/-- M3 and M4 of a dispatch that started in `s`: the two stores of a push of `ret`, and the source pending between them. -/
structure DispatchPushed (ret : Word) (s s3 s4 : State) : Prop where
  kept3 : DispatchKept s s3
  kept4 : DispatchKept s s4
  stage3 : s3.dispatchStage = .m4
  stage4 : s4.dispatchStage = .m5
  sp : s4.sp = s.sp - 2
  haltBug : s4.haltBug = false
  dispatchBit : s4.dispatchBit = lowestPending s3.pending
  stored3 : StoredAs (s.memWrite (s.sp - 1) (hiByte ret)) s3
  stored4 : StoredAs (s3.memWrite (s.sp - 2) (loByte ret)) s4

theorem State.readyToPush_pushed (ret : Word) (s : State) :
    DispatchPushed ret s (s.readyToPush ret).dispatchCycle (s.readyToPush ret).dispatchCycle.dispatchCycle := by
  have hready : StoredAs s (s.readyToPush ret) := .refl s
  have kept2 : DispatchKept s (s.readyToPush ret) := ⟨fun r _ => by cases r <;> rfl, rfl, rfl, rfl, rfl, rfl, rfl, rfl⟩
  have kept3 := kept2.trans (State.dispatchCycle_kept _)
  have push3 := State.dispatchCycle_m3_pushes (s := s.readyToPush ret) rfl
  obtain ⟨push4, hbit⟩ := State.dispatchCycle_m4_pushes push3.stage
  generalize (s.readyToPush ret).dispatchCycle = s3 at *
  have hsp : s3.sp - 1 = s.sp - 2 := by
    rw [push3.sp, State.readyToPush]
    bv_omega
  have hstored4 := push4.stored
  rw [push3.pc, hsp] at hstored4
  exact ⟨kept3, kept3.trans s3.dispatchCycle_kept, push3.stage, push4.stage, push4.sp.trans hsp,
    push4.haltBug.trans push3.haltBug, hbit, (hready.memWrite rfl _ _).trans push3.stored, hstored4⟩

/-- Settles O15: M1 and M2 fix the return address, M3 and M4 are the two stores of its push, and M5 jumps. -/
theorem dispatchRunsToHandler : Obligations.DispatchRunsToHandler := by
  refine ⟨IntSource.vector_toNat, rfl, rfl, rfl, rfl, rfl, fun s ret hf hd hr hg hret => ?_⟩
  obtain ⟨s1, hstep0, hstep1⟩ := procStep_toReadyToPush hf hd hr hg hret
  have pushed := s.readyToPush_pushed ret
  have hstep2 := procStep_dispatch (s := s.readyToPush ret) hf (by simp [State.readyToPush])
  generalize (s.readyToPush ret).dispatchCycle = s3 at *
  have hstep3 := procStep_dispatch (s := s3) (pushed.kept3.fault.trans hf) (by simp [pushed.stage3])
  generalize s3.dispatchCycle = s4 at *
  have hstep4 := procStep_dispatch (s := s4) (pushed.kept4.fault.trans hf) (by simp [pushed.stage4])
  obtain ⟨hregs, hfl, hrun, hfault, hcfg, hscript, hop, -⟩ := pushed.kept4.trans s4.dispatchCycle_kept
  have hm5 := State.dispatchCycle_m5 pushed.stage4
  rw [pushed.dispatchBit] at hm5
  have hfound (k : IntSource) (hk : lowestPending s3.pending = some k) :
      s4.dispatchCycle.pc = k.vector ∧ s4.dispatchCycle.ifl = s4.ifl &&& ~~~(1#5 <<< k.bit) := by
    rw [hm5, hk]
    exact ⟨rfl, rfl⟩
  have hnone (hk : lowestPending s3.pending = none) : s4.dispatchCycle.pc = 0x0000 ∧ s4.dispatchCycle.ifl = s4.ifl := by
    rw [hm5, hk]
    exact ⟨rfl, rfl⟩
  refine ⟨s1, _, s3, s4, s4.dispatchCycle, hstep0, hstep1, hstep2, hstep3, hstep4, by rw [hm5], by rw [hm5],
    by rw [hm5]; exact pushed.haltBug, by rw [hm5], by rw [hm5], hrun.trans hr, hfault.trans hf, by rw [hm5]; exact pushed.sp,
    hfl, hregs, hcfg, hscript, hop, pushed.stored3, pushed.stored4, by rw [hm5], by rw [hm5], by rw [hm5], by rw [hm5],
    by rw [hm5], hfound, hnone, fun hhi hlo => ?_⟩
  obtain ⟨hbus, hie, hifl, htimer, hdma, hhdma⟩ :=
    (pushed.stored3.memWrite (pushed.kept3.cfg.trans (State.memWrite_cfg _ _ _).symm) _ _).trans pushed.stored4
  obtain ⟨kie, kifl, ktimer, kdma, khdma⟩ := (s.storeBelowSp_storeFrame ret).peripheralsKept hhi hlo
  obtain ⟨hpending, hpeekHi, hpeekLo, hother⟩ :=
    dispatch_plainStack (t := s4.dispatchCycle) pushed.stored3 (by rw [hm5]; exact hbus) hcfg hhi hlo
  obtain ⟨k, hk⟩ := State.lowestPending_of_eligible hg
  obtain ⟨hpc, hclear⟩ := hfound k (by rw [hpending, hk])
  refine ⟨hpeekHi, hpeekLo, hother, k, hk, hpc, ?_, ?_, ?_, ?_, ?_⟩
  · rw [hclear, hifl]
    exact congrArg (· &&& ~~~(1#5 <<< k.bit)) kifl
  all_goals rw [hm5]
  · exact hie.trans kie
  · exact htimer.trans ktimer
  · exact hdma.trans kdma
  · exact hhdma.trans khdma

/-! ## Steps inside a dispatch -/

theorem HostOnly.regsKept {s t : State} (h : HostOnly s t) : RegsKept [] s t := by
  obtain ⟨ha, -, hb, hc, hd, he, hh, hl, -⟩ := h
  intro r _
  cases r <;> assumption

theorem WritesOnly.regsKept {s t : State} (h : WritesOnly s t) : RegsKept [] s t := fun r _ => h.getReg r

/-- Settles O16: the host and the T-cycles leave the control state, so the step is the next M-cycle. -/
theorem dispatchIsUninterruptible : Obligations.DispatchIsUninterruptible := by
  intro s hf hd
  have hhost := s.hostPhase_hostOnly
  have hregs := hhost.regsKept
  obtain ⟨-, hfl, -, -, -, -, -, -, hsp, hpc, hrun, hime, -, -, hstage, hbit, -⟩ := hhost
  rw [← hstage] at hd ⊢
  rw [← hsp, ← hpc, ← hime, ← hbit]
  have hstep := step_of_procStep (procStep_dispatch hf hd)
  generalize s.hostPhase = h at *
  have hw := h.dispatchCycle.tCycles_writesOnly 4
  have hkept := h.dispatchCycle_kept
  refine ⟨_, hstep, (hregs.trans hkept.regs).trans hw.regsKept, hw.f.trans (hkept.f.trans hfl),
    hw.runState.trans (hkept.runState.trans hrun), ?_⟩
  rw [hw.dispatchStage, hw.sp, hw.pc, hw.ime, hw.eiPending]
  refine ⟨fun h1 => ?_, fun h2 => ?_, fun h3 => ?_, fun h4 => ?_, fun h5 => ?_⟩
  · rw [State.dispatchCycle_m1 h1]
    exact ⟨rfl, rfl, rfl⟩
  · rw [State.dispatchCycle_m2 h2]
    exact ⟨rfl, rfl, rfl, rfl⟩
  · have push := State.dispatchCycle_m3_pushes h3
    exact ⟨push.stage, push.sp, push.pc, push.ime⟩
  · obtain ⟨push, -⟩ := State.dispatchCycle_m4_pushes h4
    exact ⟨push.stage, push.sp, push.pc, push.ime⟩
  · rw [State.dispatchCycle_m5 h5]
    exact ⟨rfl, rfl, rfl, rfl, rfl⟩

/-! ## Steps that run an instruction, wait, or change nothing -/

/-- Settles O9: the fetch reads the instruction's encoding and leaves PC past it. -/
theorem stepRunsDecodedInstruction : Obligations.StepRunsDecodedInstruction := by
  rintro s _ i rfl hs hb hwf hbytes u hu
  obtain ⟨op, operands, hencode, hlen, -⟩ := decodeOperands_encode hwf
  have hfetch : s.hostPhase.fetchInstr = (encode i, u) := by
    rw [hencode] at hbytes hu ⊢
    rw [hu]
    exact s.hostPhase.fetchInstr_of_bytesAt op operands hb hlen hbytes
  obtain ⟨t, hexec, -⟩ := exec_effect i u
  rw [step_of_fetch hs hwf hfetch hexec, hexec]

theorem procStep_faulted {s : State} (h : s.fault.isSome = true) : procStep s = .next (0, s) := if_pos h

/-- Settles O14: the host, the Processor and the ticks each look at the fault first. -/
theorem faultedMachineStays : Obligations.FaultedMachineStays := by
  intro s h
  have hfault := Option.isSome_iff_ne_none.mpr h
  refine ⟨procStep_faulted hfault, ?_, fun n => s.tCycles_faulted n hfault, fun act => if_pos hfault⟩
  rw [step_of_procStep (n := 0) (t := s) (by rw [s.hostPhase_faulted hfault, procStep_faulted hfault])]
  rfl

theorem procStep_halted {s : State} (hf : s.fault = none) (hd : s.dispatchStage = .idle) (hr : s.runState = .halted) :
    procStep s = .next (4, s.haltedStep) := by
  simp [procStep, hf, hd, hr]

theorem procStep_stopped {s : State} (hf : s.fault = none) (hd : s.dispatchStage = .idle) (hr : s.runState = .stopped) :
    procStep s = .next (0, s.stoppedStep) := by
  simp [procStep, hf, hd, hr]

theorem State.stoppedStep_timer_dma (s : State) : s.stoppedStep.timer = s.timer ∧ s.stoppedStep.dma = s.dma := by
  unfold State.stoppedStep
  split <;> exact ⟨rfl, rfl⟩

/-- Settles O18: the two waits, of which STOPPED takes no T-cycle. -/
theorem haltedAndStoppedSteps : Obligations.HaltedAndStoppedSteps := by
  refine fun s hf hd => ⟨procStep_halted hf hd, fun hr => ⟨procStep_stopped hf hd hr, fun hscript => ?_⟩⟩
  have hstep := step_of_procStep (s := s) (by rw [s.hostPhase_idle hscript]; exact procStep_stopped hf hd hr)
  exact ⟨s.stoppedStep, hstep, s.stoppedStep_timer_dma⟩

/-! ## One tick of the timer -/

/-- TAC's clock select picks one of four divider bits (60_exceptions.md R241). -/
theorem timerSelect_eq (tac : BitVec 3) : timerSelect tac =
    (if tac.toNat % 4 = 0 then 9 else if tac.toNat % 4 = 1 then 3 else if tac.toNat % 4 = 2 then 5 else 7) := by
  revert tac
  decide

/-! `IncrementTima` has three cases (60_exceptions.md R243). -/

theorem Timer.incrementTima_lost {t : Timer} (h : t.tstate = .overflowDelay) : t.incrementTima = t := by
  simp only [Timer.incrementTima, h]

theorem Timer.incrementTima_wraps {t : Timer} (h : t.tstate ≠ .overflowDelay) (hmax : t.tima = 0xFF) : t.incrementTima =
    { t with tima := 0x00, tstate := .overflowDelay, countdown := 4, reloadPending := true } := by
  unfold Timer.incrementTima
  split
  · contradiction
  · rw [if_pos hmax]

theorem Timer.incrementTima_counts {t : Timer} (h : t.tstate ≠ .overflowDelay) (hmax : t.tima ≠ 0xFF) : t.incrementTima =
    { t with tima := t.tima + 1 } := by
  unfold Timer.incrementTima
  split
  · contradiction
  · rw [if_neg hmax]

/-! The reload sequence's part of a tick, beside `Timer.reloadStep_reload` (60_exceptions.md R242). -/

theorem Timer.reloadStep_normal {t : Timer} (h : t.tstate = .normal) : t.reloadStep = (t, false) := by
  simp only [Timer.reloadStep, h]

/-- Both timed states count down to 1. -/
theorem Timer.reloadStep_waits {t : Timer} (h : t.tstate ≠ .normal) (hc : 2 ≤ t.countdown) :
    t.reloadStep = ({ t with countdown := t.countdown - 1 }, false) := by
  have hlast : t.countdown - 1 ≠ 0 := by omega
  unfold Timer.reloadStep
  split
  · contradiction
  · rw [if_neg hlast]
  · rw [if_neg hlast]

theorem Timer.reloadStep_ends {t : Timer} (h : t.tstate = .reloadActive) (hc : t.countdown = 1) :
    t.reloadStep = ({ t with tstate := .normal, countdown := 0 }, false) := by
  simp [Timer.reloadStep, h, hc]

/-- Outside OVERFLOW_DELAY the reload sequence requests nothing, leaves TIMA and does not enter OVERFLOW_DELAY. -/
theorem Timer.reloadStep_quiet {t : Timer} (h : t.tstate ≠ .overflowDelay) : t.reloadStep.2 = false ∧
    t.reloadStep.1.tima = t.tima ∧ t.reloadStep.1.tstate ≠ .overflowDelay ∧
    t.reloadStep.1.reloadPending = t.reloadPending := by
  unfold Timer.reloadStep
  split
  · exact ⟨rfl, rfl, h, rfl⟩
  · contradiction
  · split
    · exact ⟨rfl, rfl, by simp, rfl⟩
    · exact ⟨rfl, rfl, h, rfl⟩

/-! A whole tick. -/

theorem Timer.tick_keeps (t : Timer) :
    t.tick.1.divider = t.divider + 1 ∧ t.tick.1.tma = t.tma ∧ t.tick.1.tac = t.tac := by
  obtain ⟨-, htac, htma⟩ := t.reloadStep_keeps
  obtain ⟨h1, h2, h3⟩ := Timer.incrementTima_keeps { t.reloadStep.1 with divider := t.divider + 1 }
  rw [t.tick_eq]
  split
  · exact ⟨h1, h3.trans htma, h2.trans htac⟩
  · exact ⟨rfl, htma, htac⟩

/-- Outside OVERFLOW_DELAY no tick requests the interrupt. -/
theorem Timer.tick_quiet {t : Timer} (h : t.tstate ≠ .overflowDelay) : t.tick.2 = false := by
  obtain ⟨hirq, -⟩ := Timer.reloadStep_quiet h
  rw [t.tick_eq, hirq]

/-- A tick that overflows TIMA starts the reload sequence, whatever that sequence was doing. -/
theorem Timer.tick_overflows {t : Timer} (h : t.tstate ≠ .overflowDelay) (hfall : t.aboutToFall = true)
    (hmax : t.tima = 0xFF) : t.tick.1 =
      { t.reloadStep.1 with
        divider := t.divider + 1, tima := 0x00, tstate := .overflowDelay, countdown := 4, reloadPending := true } := by
  obtain ⟨-, htima, hstate, -⟩ := Timer.reloadStep_quiet h
  rw [t.tick_eq, if_pos hfall]
  exact Timer.incrementTima_wraps (t := { t.reloadStep.1 with divider := t.divider + 1 }) hstate (htima.trans hmax)

/-- Every other tick outside OVERFLOW_DELAY counts a falling edge, and leaves the reload sequence to itself. -/
theorem Timer.tick_counts {t : Timer} (h : t.tstate ≠ .overflowDelay) (hno : ¬ (t.aboutToFall = true ∧ t.tima = 0xFF)) :
    t.tick.1 = { t.reloadStep.1 with
      divider := t.divider + 1, tima := if t.aboutToFall then t.tima + 1 else t.tima } := by
  obtain ⟨-, htima, hstate, -⟩ := Timer.reloadStep_quiet h
  rw [t.tick_eq]
  split
  · rename_i hfall
    have hmax : t.reloadStep.1.tima ≠ 0xFF := fun e => hno ⟨hfall, htima.symm.trans e⟩
    rw [Timer.incrementTima_counts (t := { t.reloadStep.1 with divider := t.divider + 1 }) hstate hmax, ← htima]
  · rw [← htima]

theorem Timer.tick_normal {t : Timer} (h : t.tstate = .normal) (hno : ¬ (t.aboutToFall = true ∧ t.tima = 0xFF)) :
    t.tick.1 = { t with divider := t.divider + 1, tima := if t.aboutToFall then t.tima + 1 else t.tima } := by
  rw [Timer.tick_counts (by simp [h]) hno, Timer.reloadStep_normal h]

/-- In OVERFLOW_DELAY an edge is lost until the countdown ends. -/
theorem Timer.tick_delays {t : Timer} (h : t.tstate = .overflowDelay) (hc : 2 ≤ t.countdown) :
    t.tick = ({ t with divider := t.divider + 1, countdown := t.countdown - 1 }, false) := by
  rw [t.tick_eq, Timer.reloadStep_waits (by simp [h]) hc]
  split
  · exact congrArg (·, false)
      (Timer.incrementTima_lost (t := { t with divider := t.divider + 1, countdown := t.countdown - 1 }) h)
  · rfl

/-- The timer that the end of OVERFLOW_DELAY leaves, before an edge in the same tick (60_exceptions.md R242). -/
def Timer.reloaded (t : Timer) : Timer :=
  { t with divider := t.divider + 1, tima := t.tma, tstate := .reloadActive, countdown := 4, reloadPending := false }

theorem Timer.tick_reloads {t : Timer} (h : t.tstate = .overflowDelay) (hc : t.countdown = 1) :
    t.tick = (if t.aboutToFall then t.reloaded.incrementTima else t.reloaded, true) := by
  rw [t.tick_eq, t.reloadStep_reload h hc]
  rfl

/-- Settles O22: each clause is the tick's equation for that state of the reload machine. -/
theorem timerTick : Obligations.TimerTick := by
  refine ⟨timerSelect_eq, fun t => ?_⟩
  obtain ⟨hdiv, htma, htac⟩ := t.tick_keeps
  refine ⟨hdiv, htma, htac, fun h => ⟨?_, fun hfall => ?_, fun hfall hmax => ?_, fun hfall hmax => ?_⟩, fun h hno => ?_,
    fun h hno => ?_, fun h hc => ?_, fun h hc => ?_⟩
  · exact Timer.tick_quiet h
  · rw [Timer.tick_counts h (by simp [hfall]), hfall]
    rfl
  · rw [Timer.tick_counts h (fun hover => hmax hover.2), hfall]
    rfl
  · rw [Timer.tick_overflows h hfall hmax]
    exact ⟨rfl, rfl, rfl, rfl⟩
  · rw [Timer.tick_normal h hno]
    exact ⟨h, rfl, rfl⟩
  · have hdelay : t.tstate ≠ .overflowDelay := by simp [h]
    obtain ⟨-, -, -, hpending⟩ := Timer.reloadStep_quiet hdelay
    rw [Timer.tick_counts hdelay hno]
    refine ⟨hpending, fun hc => ?_, fun hc => ?_⟩
    · rw [Timer.reloadStep_waits (by simp [h]) hc]
      exact ⟨h, rfl⟩
    · rw [Timer.reloadStep_ends h hc]
      exact ⟨rfl, rfl⟩
  · rw [Timer.tick_delays h hc]
    exact ⟨rfl, h, rfl, rfl, rfl⟩
  · have hactive : t.reloaded.tstate ≠ .overflowDelay := by simp [Timer.reloaded]
    rw [Timer.tick_reloads h hc]
    refine ⟨rfl, ?_, fun hfall => ?_, fun hfall hmax => ?_, fun hfall hmax => ?_⟩
    · by_cases hmax : t.tma = 0xFF
      · rw [Timer.incrementTima_wraps hactive hmax]
        split <;> rfl
      · rw [Timer.incrementTima_counts hactive hmax]
        split <;> rfl
    · rw [hfall]
      exact ⟨rfl, rfl, rfl⟩
    · rw [if_pos hfall, Timer.incrementTima_counts hactive hmax]
      exact ⟨rfl, rfl, rfl⟩
    · rw [if_pos hfall, Timer.incrementTima_wraps hactive hmax]
      exact ⟨rfl, rfl, rfl⟩

/-! ## The reload sequence -/

theorem add_ofNat_add_one {w : Nat} (x : BitVec w) (n : Nat) :
    x + BitVec.ofNat w n + 1#w = x + BitVec.ofNat w (n + 1) := by
  rw [BitVec.add_assoc, BitVec.ofNat_add]

/-- The timer `n` ticks after a tick that overflows TIMA is about to come, that tick being the first: 4 ticks in OVERFLOW_DELAY,
then 4 in RELOAD_ACTIVE (60_exceptions.md R242). -/
def Timer.overflowed (t : Timer) (n : Nat) : Timer :=
  if n ≤ 4 then
    { t with divider := t.divider + BitVec.ofNat 16 n, tima := 0x00, tstate := .overflowDelay, countdown := 5 - n,
             reloadPending := true }
  else
    { t with divider := t.divider + BitVec.ofNat 16 n, tima := t.tma, tstate := .reloadActive, countdown := 9 - n,
             reloadPending := false }

theorem Timer.overflowed_delay {t : Timer} {n : Nat} (h : n ≤ 4) : t.overflowed n =
    { t with divider := t.divider + BitVec.ofNat 16 n, tima := 0x00, tstate := .overflowDelay, countdown := 5 - n,
             reloadPending := true } := if_pos h

theorem Timer.overflowed_active {t : Timer} {n : Nat} (h : 5 ≤ n) : t.overflowed n =
    { t with divider := t.divider + BitVec.ofNat 16 n, tima := t.tma, tstate := .reloadActive, countdown := 9 - n,
             reloadPending := false } := if_neg (by omega)

/-- No second edge comes within the sequence. -/
theorem Timer.overflowed_not_falling {t : Timer} {n : Nat} (hfall : t.aboutToFall = true) (h1 : 1 ≤ n) (h8 : n ≤ 8) :
    (t.overflowed n).aboutToFall = false := by
  refine t.aboutToFall_later _ n hfall h1 (by omega) ?_ ?_ <;> unfold Timer.overflowed <;> split <;> rfl

/-- The fifth tick, the one after the fourth, is the only one that requests the interrupt. -/
theorem Timer.overflowed_tick {t : Timer} {n : Nat} (hfall : t.aboutToFall = true) (h1 : 1 ≤ n) (h7 : n ≤ 7) :
    (t.overflowed n).tick = (t.overflowed (n + 1), decide (n = 4)) := by
  have hlow := t.overflowed_not_falling hfall h1 (by omega)
  obtain hdelay | rfl | hactive : n ≤ 3 ∨ n = 4 ∨ 5 ≤ n := by omega
  · have hstate : (t.overflowed n).tstate = .overflowDelay := by rw [Timer.overflowed_delay (by omega)]
    have hcount : (t.overflowed n).countdown = 5 - n := by rw [Timer.overflowed_delay (by omega)]
    rw [Timer.tick_delays hstate (by omega), Timer.overflowed_delay (by omega), Timer.overflowed_delay (by omega)]
    simp [add_ofNat_add_one, show n ≠ 4 by omega]
    omega
  · rw [Timer.tick_reloads rfl rfl, hlow]
    simp [Timer.reloaded, Timer.overflowed, BitVec.add_assoc]
  · have hstate : (t.overflowed n).tstate = .reloadActive := by rw [Timer.overflowed_active hactive]
    have hcount : (t.overflowed n).countdown = 9 - n := by rw [Timer.overflowed_active hactive]
    refine Prod.ext ?_ ?_
    · rw [Timer.tick_counts (by simp [hstate]) (by simp [hlow]), hlow, Timer.reloadStep_waits (by simp [hstate]) (by omega),
        Timer.overflowed_active hactive, Timer.overflowed_active (by omega)]
      simp [add_ofNat_add_one, Nat.sub_sub]
    · rw [Timer.tick_quiet (by simp [hstate])]
      simp
      omega

/-- The first eight ticks of the sequence. -/
theorem Timer.after_eq_overflowed {t : Timer} (hs : t.tstate = .normal) (hmax : t.tima = 0xFF) (hfall : t.aboutToFall = true)
    {n : Nat} (h1 : 1 ≤ n) (h8 : n ≤ 8) : t.after n = t.overflowed n := by
  induction n, h1 using Nat.le_induction with
  | base =>
    rw [Timer.after, Timer.after, Timer.tick_overflows (by simp [hs]) hfall hmax, Timer.reloadStep_normal hs]
    rfl
  | succ n h1 ih => rw [Timer.after, ih (by omega), Timer.overflowed_tick hfall h1 (by omega)]

/-- The ninth ends it. -/
theorem Timer.after_nine {t : Timer} (hs : t.tstate = .normal) (hc : t.countdown = 0) (hp : t.reloadPending = false)
    (hmax : t.tima = 0xFF) (hfall : t.aboutToFall = true) :
    t.after 9 = { t with divider := t.divider + 9, tima := t.tma } := by
  have hlow := t.overflowed_not_falling hfall (n := 8) (by omega) (by omega)
  have hstate : (t.overflowed 8).tstate = .reloadActive := rfl
  rw [Timer.after, Timer.after_eq_overflowed hs hmax hfall (by omega) (by omega),
    Timer.tick_counts (by simp [hstate]) (by simp [hlow]), hlow, Timer.reloadStep_ends hstate rfl,
    Timer.overflowed_active (by omega)]
  simp [hs, hc, hp, BitVec.add_assoc]

/-- Settles O23: the ticks of the sequence one by one, and a T-cycle's timer tick. -/
theorem timerReloadSequence : Obligations.TimerReloadSequence := by
  refine ⟨fun t hs hc hp hmax hfall => ?_, fun s hf => ?_⟩
  · have hafter {n : Nat} (h1 : 1 ≤ n) (h8 : n ≤ 8) := Timer.after_eq_overflowed hs hmax hfall h1 h8
    refine ⟨fun n h1 h4 => ?_, fun n h4 => ?_, ?_, fun n h5 h8 => ?_, Timer.after_nine hs hc hp hmax hfall⟩
    · rw [hafter h1 (by omega), Timer.overflowed_delay h4]
      exact ⟨rfl, rfl⟩
    · obtain rfl | h1 : n = 0 ∨ 1 ≤ n := by omega
      · exact Timer.tick_quiet (by simp [Timer.after, hs])
      · rw [hafter h1 (by omega), Timer.overflowed_tick hfall h1 (by omega)]
        simp
        omega
    · rw [hafter (by omega) (by omega), Timer.overflowed_tick hfall (by omega) (by omega)]
      rfl
    · rw [hafter (by omega) h8, Timer.overflowed_active h5]
      exact ⟨rfl, rfl, Timer.tick_quiet (by simp)⟩
  · obtain ⟨htimer, hifl⟩ := s.tCycle_timer hf
    refine ⟨htimer, fun hirq => ?_, fun hirq => ?_⟩
    · rw [hifl, hirq]
      rfl
    · rw [hifl, hirq]
      exact fun j hj => getLsbD_setBit s.ifl 2 hj

/-! ## The timer's rate -/

/-- The period of a clock select, in ticks (60_exceptions.md R241). -/
theorem timerPeriod_eq (tac : BitVec 3) : 2 ^ (timerSelect tac + 1) =
    (if tac.toNat % 4 = 0 then 1024 else if tac.toNat % 4 = 1 then 16 else if tac.toNat % 4 = 2 then 64 else 256) := by
  revert tac
  decide

theorem timerPeriod_dvd (tac : BitVec 3) : 2 ^ (timerSelect tac + 1) ∣ 65536 := by
  revert tac
  decide

/-- How often the divider passes a multiple of the period in `n` ticks. -/
def Timer.edges (t : Timer) (n : Nat) : Nat :=
  (t.divider.toNat + n) / 2 ^ (timerSelect t.tac + 1) - t.divider.toNat / 2 ^ (timerSelect t.tac + 1)

/-- One tick more is one edge more where the input is about to fall. -/
theorem Timer.edges_succ {t u : Timer} {n : Nat} (hon : t.tac.getLsbD 2 = true) (htac : u.tac = t.tac)
    (hdiv : u.divider = t.divider + BitVec.ofNat 16 n) :
    t.edges (n + 1) = t.edges n + if u.aboutToFall then 1 else 0 := by
  have hmod : u.divider.toNat % 2 ^ (timerSelect t.tac + 1) = (t.divider.toNat + n) % 2 ^ (timerSelect t.tac + 1) := by
    rw [hdiv, BitVec.toNat_add, BitVec.toNat_ofNat, Nat.add_mod_mod, Nat.mod_mod_of_dvd _ (timerPeriod_dvd t.tac)]
  have hmono := Nat.div_le_div_right (c := 2 ^ (timerSelect t.tac + 1)) (Nat.le_add_right t.divider.toNat n)
  have hpos : 0 < 2 ^ (timerSelect t.tac + 1) := Nat.two_pow_pos _
  simp only [Timer.edges, Timer.aboutToFall, htac, hon, Bool.true_and, hmod, decide_eq_true_eq, ← Nat.add_assoc, Nat.succ_div]
  generalize 2 ^ (timerSelect t.tac + 1) = p at *
  have hdvd : p ∣ t.divider.toNat + n + 1 ↔ (t.divider.toNat + n) % p = p - 1 := by
    obtain ⟨q, rfl⟩ := Nat.exists_eq_add_one.mpr hpos
    rw [Nat.dvd_iff_mod_eq_zero, Nat.succ_mod_succ_eq_zero_iff, Nat.add_sub_cancel]
  simp only [hdvd]
  omega

/-- The timer after `n` ticks in which TIMA counts every edge and does not overflow. -/
def Timer.counted (t : Timer) (n : Nat) : Timer :=
  { t with divider := t.divider + BitVec.ofNat 16 n, tima := t.tima + BitVec.ofNat 8 (t.edges n) }

/-- One tick more, while TIMA does not overflow. -/
theorem Timer.counted_tick {t : Timer} {n : Nat} (hs : t.tstate = .normal) (hon : t.tac.getLsbD 2 = true)
    (hmax : t.tima.toNat + t.edges (n + 1) ≤ 255) : (t.counted n).tick.1 = t.counted (n + 1) := by
  have hedges := Timer.edges_succ (u := t.counted n) hon rfl rfl
  have hno : ¬ ((t.counted n).aboutToFall = true ∧ (t.counted n).tima = 0xFF) := by
    rintro ⟨hfall, hfull⟩
    have hfull : (t.tima.toNat + t.edges n) % 256 = 255 := by simpa [Timer.counted] using congrArg BitVec.toNat hfull
    rw [hfall, if_pos rfl] at hedges
    omega
  rw [Timer.tick_normal (t := t.counted n) hs hno]
  unfold Timer.counted at hedges ⊢
  rw [hedges]
  split <;> simp [add_ofNat_add_one]

theorem Timer.edges_mono (t : Timer) (n : Nat) : t.edges n ≤ t.edges (n + 1) :=
  Nat.sub_le_sub_right (Nat.div_le_div_right (by omega)) _

theorem Timer.after_eq_counted {t : Timer} {n : Nat} (hs : t.tstate = .normal) (hon : t.tac.getLsbD 2 = true)
    (hmax : t.tima.toNat + t.edges n ≤ 255) : t.after n = t.counted n := by
  induction n with
  | zero => simp [Timer.after, Timer.counted, Timer.edges]
  | succ n ih =>
    have hmono := t.edges_mono n
    rw [Timer.after, ih (by omega), Timer.counted_tick hs hon hmax]

/-- A disabled timer's edge detector has no edge to see. -/
theorem Timer.not_falling_of_disabled {t : Timer} (h : t.tac.getLsbD 2 = false) : t.aboutToFall = false := by
  rw [Timer.aboutToFall, h, Bool.false_and]

theorem Timer.after_disabled {t : Timer} (n : Nat) (hs : t.tstate = .normal) (hoff : t.tac.getLsbD 2 = false) :
    t.after n = { t with divider := t.divider + BitVec.ofNat 16 n } := by
  induction n with
  | zero => simp [Timer.after]
  | succ n ih =>
    have hlow : Timer.aboutToFall { t with divider := t.divider + BitVec.ofNat 16 n } = false :=
      Timer.not_falling_of_disabled hoff
    rw [Timer.after, ih, Timer.tick_normal (t := { t with divider := t.divider + BitVec.ofNat 16 n }) hs (by simp [hlow]), hlow]
    simp [add_ofNat_add_one]

/-- Settles O24: tick by tick, one edge at every multiple of the period. -/
theorem timerCountsAtItsRate : Obligations.TimerCountsAtItsRate := by
  refine ⟨fun s n hf => s.tCycles_timer n hf, fun t n period hs hperiod => ⟨fun hon hmax => ?_, Timer.after_disabled n hs⟩⟩
  rw [← timerPeriod_eq] at hperiod
  subst hperiod
  exact Timer.after_eq_counted hs hon hmax

/-! ## The timer's registers -/

/-- TAC reads with ones in its unused bits (10_state.md R36). -/
theorem tac_read_bits (tac : BitVec 3) :
    ∀ j < 8, (0xF8 ||| tac.zeroExtend 8 : Byte).getLsbD j = if j < 3 then tac.getLsbD j else true := by
  revert tac
  decide

theorem Timer.writeTma_outside {t : Timer} (h : t.tstate ≠ .reloadActive) (v : Byte) : t.writeTma v = { t with tma := v } := by
  unfold Timer.writeTma
  split
  · contradiction
  · rfl

/-- Settles O25: the four addresses are core registers, whose reads have no effect and whose writes are the timer's. -/
theorem timerRegisters : Obligations.TimerRegisters := by
  intro s v high hhigh
  obtain ⟨rdDiv, keepDiv, wrDiv⟩ := State.coreReg_access (s := s) (addr := 0xFF04) (r := .div) (by decide) rfl
  obtain ⟨rdTima, keepTima, wrTima⟩ := State.coreReg_access (s := s) (addr := 0xFF05) (r := .tima) (by decide) rfl
  obtain ⟨rdTma, keepTma, wrTma⟩ := State.coreReg_access (s := s) (addr := 0xFF06) (r := .tma) (by decide) rfl
  obtain ⟨rdTac, keepTac, wrTac⟩ := State.coreReg_access (s := s) (addr := 0xFF07) (r := .tac) (by decide) rfl
  rw [rdDiv, rdTima, rdTma, rdTac, wrDiv, wrTima, wrTma, wrTac]
  have hsignal : timerSignal s.timer.divider s.timer.tac = high := hhigh.symm
  refine ⟨rfl, rfl, rfl, tac_read_bits s.timer.tac, ?_, fun h => ?_, fun h => ?_, fun h => ?_, fun h => ?_, fun h => ?_,
    fun h => ?_, fun h => ?_, fun tac htac low hlow => ⟨fun h => ?_, fun h => ?_⟩⟩
  · simp only [List.forall_mem_cons]
    exact ⟨keepDiv, keepTima, keepTma, keepTac, by simp⟩
  · simp only [State.writeCoreReg, Timer.writeDiv, hsignal, h, Bool.false_eq_true, if_false]
  · simp only [State.writeCoreReg, Timer.writeDiv, hsignal, h, if_true]
  · simp only [State.writeCoreReg, Timer.writeTima, h]
  · simp only [State.writeCoreReg, Timer.writeTima, h]
  · simp only [State.writeCoreReg, Timer.writeTima, h]
  · simp only [State.writeCoreReg]
    rw [Timer.writeTma_outside h]
  · simp only [State.writeCoreReg, Timer.writeTma, h]
  all_goals
    subst htac hlow
    rw [← hsignal] at h
  · exact congrArg (fun t => { s with timer := t }) (if_neg (Bool.eq_false_iff.mp h))
  · exact congrArg (fun t => { s with timer := t }) (if_pos h)

/-! ## OAM-DMA -/

theorem OamDma.afterStart_active (v : Byte) (l : Bool) (n : Nat) : (OamDma.afterStart v l n).active = decide (n < 648) := by
  unfold OamDma.afterStart
  split
  · simp
    omega
  · split <;> simp_all

/-- The startup of a transfer locks the bus only where it was locked before (60_exceptions.md R254). -/
theorem OamDma.afterStart_locks (v : Byte) (l : Bool) (n : Nat) :
    (OamDma.afterStart v l n).locks = (decide (n < 648) && (decide (8 ≤ n) || l)) := by
  unfold OamDma.locks
  rw [OamDma.afterStart_active]
  unfold OamDma.afterStart
  by_cases h8 : n < 8
  · have hstartup : (8 - n == 0) = false := by simp; omega
    simp [h8, hstartup, Nat.not_le_of_lt h8]
  · by_cases hend : n < 648 <;> simp [h8, hend, Nat.le_of_not_lt h8]

theorem OamDma.afterStart_reg (v : Byte) (l : Bool) (n : Nat) : (OamDma.afterStart v l n).reg = v := by
  unfold OamDma.afterStart
  split
  · rfl
  · split <;> rfl

/-- The engine `n` T-cycles after the write that started it. -/
theorem State.tCycles_memWrite_dma {s : State} (hf : s.fault = none) (v : Byte) (n : Nat) :
    (State.tCycles n (s.memWrite 0xFF46 v)).dma = OamDma.afterStart v s.dma.locks n := by
  rw [s.memWrite_dma]
  exact (State.tCycles_dma { s with dma := OamDma.afterStart v s.dma.locks 0 } v s.dma.locks n hf rfl).1

/-- Settles O26: the lock, `dmaActive` and `dmaReg` are those of the engine `n` T-cycles after its start. -/
theorem oamDmaLockWindow : Obligations.OamDmaLockWindow := by
  intro s v n a hf
  have hdma := State.tCycles_memWrite_dma hf v n
  refine ⟨?_, ?_, ?_⟩
  · rw [State.busLocked, hdma, OamDma.afterStart_locks, Bool.and_assoc]
  · rw [hdma, OamDma.afterStart_active]
  · obtain ⟨hread, -⟩ := State.coreReg_access (s := State.tCycles n (s.memWrite 0xFF46 v)) (addr := 0xFF46) (r := .dma)
      (by decide) rfl
    rw [hread, State.coreRegByte, hdma, OamDma.afterStart_reg]

/-- A byte of the bus that no external unit answers for, read in a later state. -/
theorem State.peek_bus_congr {s t : State} {x : Word} (hw : WritesOnly s t) (hc : s.coreReg x = none)
    (hk : s.busKind x ≠ .external) (hm : t.bus.mem.read x.toNat = s.bus.mem.read x.toNat) : t.peek x = s.peek x := by
  rw [State.peek_bus hc, State.peek_bus ((hw.coreReg x).trans hc)]
  cases hkind : s.busKind x with
  | external => exact absurd hkind hk
  | plain => rw [State.busByte_plain hkind, State.busByte_plain ((hw.busKind x).trans hkind), hm]
  | unmapped => rw [State.busByte_unmapped hkind, State.busByte_unmapped ((hw.busKind x).trans hkind)]

/-- OAM holds no core register. -/
theorem State.coreReg_oam (s : State) {i : Nat} (hi : i < 160) : s.coreReg (0xFE00 + BitVec.ofNat 16 i) = none :=
  coreRegAt_low _ _ (by rw [oamAddr_toNat i hi]; omega)

/-- Byte `i` of a page is no byte that the transfer has copied before it, even where the page is OAM itself. -/
theorem oamSource_ne_oam {v : Byte} {i j : Nat} (hj : j < i) (hi : i < 160) :
    (BitVec.ofNat 16 (v.toNat * 256 + i) : Word) ≠ 0xFE00 + BitVec.ofNat 16 j := by
  intro e
  have e := congrArg BitVec.toNat e
  have hv := v.isLt
  rw [oamAddr_toNat j (by omega), BitVec.toNat_ofNat] at e
  omega

/-- A byte from plain or unmapped memory is still the one that stood there at the write. -/
theorem State.oamSource_kept {s : State} (hf : s.fault = none) (v : Byte) {i : Nat} (hi : i < 160)
    (hc : s.coreReg (BitVec.ofNat 16 (v.toNat * 256 + i)) = none)
    (hk : s.busKind (BitVec.ofNat 16 (v.toNat * 256 + i)) ≠ .external) :
    (State.tCycles (11 + 4 * i) (s.memWrite 0xFF46 v)).timerTick.coreByte (BitVec.ofNat 16 (v.toNat * 256 + i)) =
      s.peek (BitVec.ofNat 16 (v.toNat * 256 + i)) := by
  obtain ⟨⟨-, hframe⟩, -⟩ := s.tCycles_oamCopied v (11 + 4 * i) hf
  have hcount : oamCopiedAt (11 + 4 * i) = i := by
    rw [oamCopiedAt, if_neg (by omega)]
    omega
  rw [hcount] at hframe
  have hw := (s.memWrite_writesOnly 0xFF46 v).trans (State.tCycles_writesOnly (11 + 4 * i) _)
  refine State.peek_bus_congr (hw.trans (State.timerTick_writesOnly _)) hc hk ?_
  rw [State.timerTick_eq]
  exact hframe _ fun j hj => oamSource_ne_oam hj hi

/-- Settles O27: after 648 T-cycles all 160 bytes are copied, each in its own T-cycle. -/
theorem oamDmaCopiesPage : Obligations.OamDmaCopiesPage := by
  intro s t v hf ht
  generalize hn : 648 = n at ht
  subst ht
  have hw := (s.memWrite_writesOnly 0xFF46 v).trans (State.tCycles_writesOnly n _)
  obtain ⟨⟨hbytes, hframe⟩, hie, hhdma⟩ := s.tCycles_oamCopied v n hf
  rw [show oamCopiedAt n = 160 from hn ▸ rfl] at hbytes hframe
  refine ⟨fun i hi hp => ?_, fun x hx => hframe x fun i hi e => ?_, ?_, hw.2, hie, hhdma⟩
  · have hbyte := (State.peek_plain (s.coreReg_oam hi) hp hw.cfg hw.2).trans (hbytes i hi hp)
    rw [oamSource_eq] at hbyte
    exact ⟨hbyte, fun hc hk => hbyte.trans (State.oamSource_kept hf v hi hc hk)⟩
  · rw [e, oamAddr_toNat i hi] at hx
    omega
  · rw [State.tCycles_memWrite_dma hf, OamDma.afterStart_active, ← hn]
    rfl

/-! ## The HDMA registers -/

/-- The DMG has no HDMA (60_exceptions.md R270). -/
theorem State.coreReg_hdma_dmg {s : State} (h : s.cfg.variant = .dmg) : s.coreReg 0xFF51 = none ∧ s.coreReg 0xFF52 = none ∧
    s.coreReg 0xFF53 = none ∧ s.coreReg 0xFF54 = none ∧ s.coreReg 0xFF55 = none := by
  unfold State.coreReg
  rw [h]
  decide

theorem State.hblankBlock_dmg {s : State} (h : s.cfg.variant = .dmg) : s.hblankBlock = s := by
  simp only [State.hblankBlock, h]

/-! The bytes of an address as numbers: a write sets one of the two and keeps the other (60_exceptions.md R263). -/

theorem eq_ofNat_of_toNat {w n : Nat} {x : BitVec w} (h : x.toNat = n) : x = BitVec.ofNat w n := by
  rw [← h, BitVec.ofNat_toNat, BitVec.setWidth_eq]

theorem append_lowByte_eq {n : Nat} (hi : BitVec n) (x : BitVec (n + 8)) :
    hi ++ x.extractLsb' 0 8 = BitVec.ofNat (n + 8) (hi.toNat * 256 + x.toNat % 256) := by
  apply eq_ofNat_of_toNat
  rw [append_byte_toNat, BitVec.extractLsb'_toNat, Nat.shiftRight_zero]

/-- The low byte goes through its mask. -/
theorem highBits_append_eq {n : Nat} (x : BitVec (n + 8)) (lo : Byte) :
    x.extractLsb' 8 n ++ (lo &&& 0xF0) = BitVec.ofNat (n + 8) (x.toNat / 256 * 256 + lo.toNat / 16 * 16) := by
  apply eq_ofNat_of_toNat
  have hlt : x.toNat / 256 < 2 ^ n := Nat.div_lt_of_lt_mul (by rw [Nat.mul_comm]; exact x.isLt.trans_eq (Nat.pow_add 2 n 8))
  rw [append_byte_toNat, BitVec.extractLsb'_toNat, and_f0_toNat, Nat.shiftRight_eq_div_pow]
  exact congrArg (· * 256 + lo.toNat / 16 * 16) (Nat.mod_eq_of_lt hlt)

/-- The mask of HDMA3 keeps five bits. -/
theorem fiveBits_toNat (v : Byte) : (v.extractLsb' 0 5).toNat = v.toNat % 32 := by
  rw [BitVec.extractLsb'_toNat, Nat.shiftRight_zero]

/-- Settles O29: on the CGB the five addresses are core registers, past any lock; on the DMG they are not. -/
theorem hdmaRegisters : Obligations.HdmaRegisters := by
  refine ⟨fun s h => ?_, fun s v h => ?_⟩
  · obtain ⟨h1, h2, h3, h4, h5⟩ := State.coreReg_hdma_dmg h
    exact ⟨h1, h2, h3, h4, h5, State.hblankBlock_dmg h⟩
  · obtain ⟨r1, r2, r3, r4, r5⟩ := State.coreReg_hdma h
    obtain ⟨read1, keep1, write1⟩ := State.coreReg_access (by decide) r1
    obtain ⟨read2, keep2, write2⟩ := State.coreReg_access (by decide) r2
    obtain ⟨read3, keep3, write3⟩ := State.coreReg_access (by decide) r3
    obtain ⟨read4, keep4, write4⟩ := State.coreReg_access (by decide) r4
    obtain ⟨read5, keep5, -⟩ := State.coreReg_access (by decide) r5
    rw [write1, write2, write3, write4, read5, ← fiveBits_toNat]
    refine ⟨congrArg (fun x => { s with hdma := { s.hdma with src := x } }) (append_lowByte_eq v s.hdma.src),
      congrArg (fun x => { s with hdma := { s.hdma with src := x } }) (highBits_append_eq s.hdma.src v),
      congrArg (fun x => { s with hdma := { s.hdma with dst := x } }) (append_lowByte_eq (v.extractLsb' 0 5) s.hdma.dst),
      congrArg (fun x => { s with hdma := { s.hdma with dst := x } }) (highBits_append_eq s.hdma.dst v),
      ?_, keep5, s.hdma.status_toNat⟩
    simp only [List.forall_mem_cons]
    exact ⟨⟨read1, keep1⟩, ⟨read2, keep2⟩, ⟨read3, keep3⟩, ⟨read4, keep4⟩, by simp⟩

/-! ## A write to HDMA5 -/

/-- A general-purpose transfer of `n` blocks, set up to copy (60_exceptions.md R265). -/
def State.startGeneralHdma (n : Nat) (s : State) : State :=
  { s with hdma := { s.hdma with remaining := n, stopped := false, mode := .general } }

/-- The end of a transfer. -/
def State.endHdma (s : State) : State := { s with hdma := { s.hdma with active := false } }

theorem State.memWrite_hdma5 {s : State} (h : s.cfg.variant = .cgb) (v : Byte) : s.memWrite 0xFF55 v = s.writeHdma5 v := by
  obtain ⟨-, -, -, -, hreg⟩ := State.coreReg_hdma h
  obtain ⟨-, -, hwrite⟩ := State.coreReg_access (by decide) hreg
  exact hwrite v

/-- Whether an HBlank transfer is active, as `WriteHDMA5` and the HBlank event ask it (60_exceptions.md R265, R268). -/
theorem Hdma.inHblank_iff (x : Hdma) : (x.active && x.mode == .hblank) = true ↔ x.active = true ∧ x.mode = .hblank := by
  rw [Bool.and_eq_true, beq_iff_eq]

theorem State.writeHdma5_inHblank {s : State} (h : s.hdma.active = true ∧ s.hdma.mode = .hblank) (v : Byte) :
    s.writeHdma5 v =
      if v.getLsbD 7 then s else { s with hdma := { s.hdma with active := false, stopped := true } } :=
  if_pos (s.hdma.inHblank_iff.mpr h)

theorem State.writeHdma5_outside {s : State} (h : ¬ (s.hdma.active = true ∧ s.hdma.mode = .hblank)) (v : Byte) :
    s.writeHdma5 v =
      if v.getLsbD 7 then
        { s with hdma := { s.hdma with remaining := hdmaBlockCount v, stopped := false, mode := .hblank, active := true } }
      else (State.hdmaBlocks (hdmaBlockCount v) (s.startGeneralHdma (hdmaBlockCount v))).endHdma :=
  if_neg fun hin => h (s.hdma.inHblank_iff.mp hin)

theorem State.writeHdma5_general {s : State} (h : ¬ (s.hdma.active = true ∧ s.hdma.mode = .hblank)) {v : Byte}
    (hv : v.getLsbD 7 = false) : s.writeHdma5 v =
      (State.hdmaBlocks (hdmaBlockCount v) (s.startGeneralHdma (hdmaBlockCount v))).endHdma := by
  rw [State.writeHdma5_outside h, if_neg (Bool.eq_false_iff.mp hv)]

/-- The engine after a general-purpose transfer (60_exceptions.md R265). -/
theorem State.hdma_after_general {s : State} (hd : s.hdma.dst.extractLsb' 0 4 = 0#4) (n : Nat) :
    (State.hdmaBlocks n (s.startGeneralHdma n)).endHdma.hdma =
      { src := s.hdma.src + BitVec.ofNat 16 (16 * n), dst := s.hdma.dst + BitVec.ofNat 13 (16 * n),
        active := false, mode := .general, remaining := 0, stopped := false } := by
  rw [State.endHdma, State.hdmaBlocks_hdma n (s.startGeneralHdma n) hd]
  simp [State.startGeneralHdma]

/-- Settles O30: the four branches of `WriteHDMA5`. -/
theorem hdma5Write : Obligations.Hdma5Write := by
  intro s v blocks hcgb hblocks
  rw [← hdmaBlockCount_eq] at hblocks
  subst hblocks
  rw [State.memWrite_hdma5 hcgb]
  refine ⟨fun ha hm hv => ?_, fun ha hm hv => ?_, fun h hv => ?_, fun h hv hd => ?_⟩
  · rw [State.writeHdma5_inHblank ⟨ha, hm⟩, if_neg (Bool.eq_false_iff.mp hv)]
  · rw [State.writeHdma5_inHblank ⟨ha, hm⟩, if_pos hv]
  · rw [State.writeHdma5_outside h, if_pos hv]
  · have hhdma := State.hdma_after_general hd (hdmaBlockCount v)
    rw [← State.writeHdma5_general h hv] at hhdma
    obtain ⟨-, -, -, -, hreg⟩ := State.coreReg_hdma (s := s.writeHdma5 v) ((s.writeHdma5_writesOnly v).cfg ▸ hcgb)
    obtain ⟨hread, -⟩ := State.coreReg_access (by decide) hreg
    refine ⟨hhdma, ?_⟩
    rw [hread, State.coreRegByte, hhdma]
    exact BitVec.eq_of_toNat_eq (Hdma.status_toNat _)

/-! ## What a transfer copies -/

theorem hdmaBlockCount_of_general {v : Byte} (h : v.getLsbD 7 = false) : hdmaBlockCount v = v.toNat + 1 := by
  revert v
  decide

/-- What a byte leaves stays where the bus stays. -/
theorem HdmaByte.of_bus {s y t : State} {blocks n j : Nat} (h : HdmaByte s y blocks j) (hj : j < n) (hy : WritesOnly s y)
    (ht : t.bus = y.bus) (hp : ∀ i < n, s.busKind (s.hdmaTo i) = .plain) : HdmaByte s t blocks j := by
  refine h.congr fun i hi => ?_
  have hi := hp i (by omega)
  rw [State.peek_hdmaTo (ht ▸ hy.2) hi, State.peek_hdmaTo hy.2 hi, ht]

/-- Settles O31: the transfer starts with nothing copied and then copies block after block. -/
theorem generalHdmaCopiesBlocks : Obligations.GeneralHdmaCopiesBlocks := by
  intro s t v n hcgb h hv hn hd ht
  rw [State.memWrite_hdma5 hcgb] at ht
  have hw : WritesOnly s t := ht ▸ s.writeHdma5_writesOnly v
  have hcount := hdmaBlockCount_of_general hv
  have hle : v.toNat < 128 := by
    have := hdmaBlockCount_eq v
    omega
  rw [State.writeHdma5_general h hv, hcount] at ht
  have hstart : HdmaCopied s (v.toNat + 1) (16 * 0) (s.startGeneralHdma (v.toNat + 1)) :=
    .start ⟨rfl, rfl⟩ rfl rfl rfl rfl rfl rfl
  obtain ⟨htimer, hdma, hie, hifl⟩ := (s.startGeneralHdma (v.toNat + 1)).hdmaBlocks_others (v.toNat + 1)
  have hframe := State.hdmaBlocks_read_other (v.toNat + 1) (s.startGeneralHdma (v.toNat + 1))
  subst ht hn
  refine ⟨fun hp j hj => ?_, fun x hx => hframe x hd hx, htimer, hdma, hie, hifl, hw.regsKept, hw.f, hw.sp, hw.pc,
    hw.controlKept⟩
  have hcopied := hstart.blocks (k := v.toNat + 1) (by omega) (by omega) hp hd rfl (by simp [State.startGeneralHdma])
    (by simp [State.startGeneralHdma])
  rw [Nat.zero_add] at hcopied
  exact (hcopied.bytes j hj).of_bus hj hcopied.writesOnly rfl hp

/-! ## An HBlank block -/

theorem State.hblankBlock_outside {s : State} (h : ¬ (s.hdma.active = true ∧ s.hdma.mode = .hblank)) : s.hblankBlock = s := by
  unfold State.hblankBlock
  split
  · rfl
  · exact if_neg fun hin => h (s.hdma.inHblank_iff.mp hin)

theorem State.hblankBlock_inHblank {s : State} (hcgb : s.cfg.variant = .cgb)
    (h : s.hdma.active = true ∧ s.hdma.mode = .hblank) : s.hblankBlock =
      { s.hdmaStep with hdma := { s.hdmaStep.hdma with active := decide (s.hdmaStep.hdma.remaining ≠ 0) } } := by
  unfold State.hblankBlock
  rw [hcgb]
  exact (if_pos (s.hdma.inHblank_iff.mpr h)).trans (by simp [bne, beq_eq_decide])

/-- Settles O32: the event is one block and the end of the transfer at 0. -/
theorem hblankBlock : Obligations.HblankBlock := by
  intro s hcgb
  obtain ⟨hw, htimer, hdma, hie, hifl⟩ := s.hblankBlock_others
  refine ⟨State.hblankBlock_outside, ⟨htimer, hdma, hie, hifl, hw.regsKept, hw.f, hw.sp, hw.pc, hw.controlKept⟩,
    fun ha hm hd => ?_⟩
  rw [State.hblankBlock_inHblank hcgb ⟨ha, hm⟩]
  obtain ⟨hmask, -⟩ := hdmaDst_advance _ hd
  refine ⟨?_, fun x hx => s.hdmaBlocks_read_other 1 x hd hx, fun hp j hj => ?_⟩
  · simp only [s.hdmaStep_parts, hmask]
  · have hstart : HdmaCopied s s.hdma.remaining (16 * 0) s := .start .refl rfl rfl rfl rfl rfl rfl
    have hcopied := hstart.step (n := 16) (by omega) (by omega) hp rfl (by simp) (by simp)
    exact (hcopied.bytes j hj).of_bus hj hcopied.writesOnly rfl hp

end Sys2Proof.Machine
end

