-- ==== Sys2Proof/Proofs/ResetAndHazards.lean ====
section
/-! PROOFS. The family of 70_reset_and_hazards.md: the reset state and its values, the default cycle costs, and the latency of the
interrupt enable. -/
namespace Sys2Proof.Machine

/-! ## The interrupt enable -/

/-- A step that ran an instruction and recorded no fault ends with IME and the pending enable as the end of that instruction
leaves them: no T-cycle moves them (60_exceptions.md R201, R202). -/
theorem step_enable_eq_finishInstr {s t : State} (hs : s.hostPhase.AtInstruction) (h : step s = .next t) (hfault : t.fault = none) :
    ∃ b1 b2 u, exec (decodeOp (s.hostPhase.readByte s.pc) b1 b2) s.hostPhase.fetchInstr.2 = .next u ∧
      Effect s.hostPhase.fetchInstr.2 (decodeOp (s.hostPhase.readByte s.pc) b1 b2) u ∧
      t.ime = (u.finishInstr s.eiPending).ime ∧ t.eiPending = (u.finishInstr s.eiPending).eiPending := by
  obtain ⟨-, -, -, -, -, -, -, -, -, hpc, -, -, hei, -⟩ := s.hostPhase_hostOnly
  obtain ⟨b1, b2, u, hexec, he, hproc⟩ := s.hostPhase.instrStep_next
  rw [hpc] at hexec he hproc
  rw [← procStep_instruction hs, hei] at hproc
  refine ⟨b1, b2, u, hexec, he, ?_⟩
  by_cases hu : u.fault.isSome = true
  · rw [if_pos hu] at hproc
    cases h.symm.trans (step_of_procStep hproc)
    simp [show u.fault = none from hfault] at hu
  · rw [if_neg hu] at hproc
    cases h.symm.trans (step_of_procStep hproc)
    exact ⟨(State.tCycles_writesOnly _ _).ime, (State.tCycles_writesOnly _ _).eiPending⟩

/-- The host's actions and the fetch leave IME and the pending enable. -/
theorem State.hostPhase_fetchInstr_enable (s : State) :
    s.hostPhase.fetchInstr.2.ime = s.ime ∧ s.hostPhase.fetchInstr.2.eiPending = s.eiPending := by
  obtain ⟨-, -, -, -, -, -, -, -, -, -, -, hime, hei, -⟩ := s.hostPhase_hostOnly
  obtain ⟨n, pc, hb, oa, e⟩ := s.hostPhase.fetchInstr_fetchOnly
  rw [e]
  exact ⟨hime, hei⟩

@[simp] theorem haltEffect_eiPending (s : State) : (haltEffect s).eiPending = s.eiPending := by
  unfold haltEffect
  split
  · rfl
  · split <;> rfl

@[simp] theorem stopEffect_eiPending (s : State) : (stopEffect s).eiPending = s.eiPending := by
  unfold stopEffect
  split <;> rfl

/-- Of the instructions only DI calls a pending enable off: RETI makes it at once, and every other one leaves it pending. -/
theorem Effect.enabled_of_pending {s t : State} {i : Instr} (he : Effect s i t) (hi : i ≠ .di) (h : s.eiPending = true) :
    t.eiPending = true ∨ (t.ime = true ∧ t.eiPending = false) := by
  cases he with
  | ordinary _ _ ho =>
    obtain ⟨-, -, hei, -⟩ := ho.control
    exact .inl (hei.trans h)
  | halt => exact .inl ((haltEffect_eiPending s).trans h)
  | stop x => exact .inl ((stopEffect_eiPending s).trans h)
  | di => exact absurd rfl hi
  | ei => exact .inl rfl
  | reti => exact .inr ⟨rfl, rfl⟩
  | unassigned u => exact .inl h

/-- An instruction read as DI has DI's opcode byte. -/
theorem opcode_of_di {op b1 b2 : Byte} (h : decodeOp op b1 b2 = .di) : op = 0xF3 :=
  decodeOp_head (b1 := b1) (b2 := b2) (rest := []) (by rw [h]; rfl)

/-- The end of an instruction that started with the enable pending. -/
theorem State.finishInstr_enabled {u : State} (h : u.eiPending = true ∨ (u.ime = true ∧ u.eiPending = false)) :
    (u.finishInstr true).ime = true ∧ (u.finishInstr true).eiPending = false := by
  obtain hei | ⟨hime, hei⟩ := h
  · simp [State.finishInstr, hei]
  · simp [State.finishInstr, hime, hei]

/-- Settles O12: EI only sets the pending enable, which the next instruction's end takes up unless DI calls it off. -/
theorem enableFollowsNextInstruction : Obligations.EnableFollowsNextInstruction := by
  intro s t hs h hfault
  obtain ⟨b1, b2, u, hexec, he, hime, hei⟩ := step_enable_eq_finishInstr hs h hfault
  obtain ⟨hime0, hei0⟩ := s.hostPhase_fetchInstr_enable
  rw [hime, hei]
  refine ⟨fun h0 hop => ?_, fun h1 hop => ?_, fun hop => ?_⟩
  · rw [hop, show decodeOp 0xFB b1 b2 = .ei from rfl] at hexec
    cases hexec
    rw [h0]
    exact ⟨hime0, rfl⟩
  · rw [h1]
    exact State.finishInstr_enabled (he.enabled_of_pending (fun hdi => hop (opcode_of_di hdi)) (hei0.trans h1))
  · rw [hop, show decodeOp 0xF3 b1 b2 = .di from rfl] at hexec
    cases hexec
    simp [State.finishInstr]

/-! ## Reset -/

/-- The reset state meets the invariant: F and the HDMA addresses take their values through their masks, and no engine runs. -/
theorem State.resetWith_inv (cfg : Config) (resetState : Variant → ResetState) (divReset : BitVec 16) (src : BitVec 16)
    (dst : BitVec 13) (bus : Bus) (h : bus.mem.wf = true) : (State.resetWith cfg resetState divReset src dst bus).Inv := by
  have hcontrol := State.ControlInv.of_idle (s := State.resetWith cfg resetState divReset src dst bus) (and_f0_low _) rfl rfl rfl
  have htimer : (State.resetWith cfg resetState divReset src dst bus).timer.Inv :=
    ⟨rfl, fun _ => rfl, fun h => absurd rfl h, nofun⟩
  have hdma : (State.resetWith cfg resetState divReset src dst bus).dma.Inv := by
    simp [State.resetWith, OamDma.Inv]
  have hhdma : (State.resetWith cfg resetState divReset src dst bus).hdma.Inv :=
    ⟨(hdmaSrc_masked src).1, (hdmaDst_masked dst).1, Nat.zero_le _, nofun, nofun⟩
  exact ⟨hcontrol, htimer, hdma, hhdma, h⟩

/-- Settles O6: `State.reset` is the reset state with an empty bus. -/
theorem resetMeetsInvariant : Obligations.ResetMeetsInvariant :=
  ⟨State.resetWith_inv _ _ _ _ _ _ rfl, State.resetWith_inv⟩

/-- The debug path reads a core register's byte at its address. -/
theorem State.peek_coreReg {s : State} {addr : Word} {r : CoreReg} (h : s.coreReg addr = some r) :
    s.peek addr = s.coreRegByte r := by
  simp only [State.peek, State.coreByte, h]

/-- Settles O5: the defaults by the rows of R26 for each variant, and the fields of `State.resetWith` one by one. -/
theorem resetValues : Obligations.ResetValues := by
  refine ⟨⟨0, 0, 0, Bus.plain, rfl, rfl, rfl⟩, fun variant => ⟨rfl, rfl, rfl⟩, ?_,
    ⟨_, rfl, rfl, rfl, rfl, rfl, rfl, rfl, rfl, rfl, rfl⟩, ⟨_, rfl, rfl, rfl, rfl, rfl, rfl, rfl, rfl, rfl, rfl⟩, ?_⟩
  · rintro variant _ rfl
    cases variant <;> exact ⟨rfl, rfl, rfl, rfl, rfl, rfl, rfl, rfl, rfl, rfl⟩
  · intro cfg resetState divReset src dst bus
    refine ⟨State.resetWith cfg resetState divReset src dst bus, resetState cfg.variant, rfl, rfl,
      rfl, rfl, rfl, rfl, rfl, rfl, rfl, rfl, rfl, rfl, rfl, rfl, rfl, rfl, rfl, rfl, rfl, rfl, rfl, rfl, rfl, rfl, rfl, rfl,
      rfl, rfl, rfl, rfl, rfl, rfl, rfl, rfl, rfl, rfl, rfl, rfl, rfl,
      (hdmaSrc_masked src).2, (hdmaDst_masked dst).2, rfl, rfl,
      fun htac => ?_, fun hifl => ?_, ?_, fun hcgb => ?_, fun hrun hime => ⟨rfl, rfl, hrun, ?_⟩⟩
    · rw [State.peek_coreReg (r := .tac) rfl]
      simp [State.coreRegByte, State.resetWith, htac]
    · rw [State.peek_coreReg (r := .ifReg) rfl]
      simp [State.coreRegByte, State.resetWith, hifl]
    · exact State.peek_coreReg (r := .dma) rfl
    · obtain ⟨-, -, -, -, hreg⟩ := State.coreReg_hdma (s := State.resetWith cfg resetState divReset src dst bus) hcgb
      rw [State.peek_coreReg hreg]
      simp [State.coreRegByte, State.resetWith, Hdma.status]
    · simp [State.eligible, State.resetWith, hime]

/-! ## Cycle costs -/

section Costs
variable {cfg : Config} (h : cfg.costs = []) (taken : Bool)
include h

/-- Where `Config.costs` names no opcode, the configuration plays no part in the cost of an instruction (log 11). -/
theorem instrCost_default (i : Instr) : instrCost cfg i taken = instrCost (Config.defaults .dmg) i taken := by
  unfold instrCost opcodeCost
  rw [h]
  rfl

theorem instrCost_ofLdRegReg (dst src : Reg8) : instrCost cfg (.ofLdRegReg dst src) taken = 4 := by
  rw [instrCost_default h]
  cases taken <;> cases dst <;> cases src <;> rfl

/-- A register operand costs no access. -/
theorem instrCost_ofAlu_reg (op : AluOp) (r : Reg8) : instrCost cfg (.ofAlu op (.reg r)) taken = 4 := by
  rw [instrCost_default h]
  cases taken <;> cases op <;> cases r <;> rfl

theorem instrCost_ofAlu_atHl (op : AluOp) : instrCost cfg (.ofAlu op .atHl) taken = 8 := by
  rw [instrCost_default h]
  cases taken <;> cases op <;> rfl

theorem instrCost_ofAlu_imm (op : AluOp) (n : Byte) : instrCost cfg (.ofAlu op (.imm n)) taken = 8 := by
  rw [instrCost_default h]
  cases taken <;> cases op <;> rfl

theorem instrCost_ofInc (o : Loc) : instrCost cfg (.ofInc o) taken = if o = .atHl then 12 else 4 := by
  rw [instrCost_default h]
  cases taken <;> rcases o with (_ | _) | _ <;> rfl

theorem instrCost_ofDec (o : Loc) : instrCost cfg (.ofDec o) taken = if o = .atHl then 12 else 4 := by
  rw [instrCost_default h]
  cases taken <;> rcases o with (_ | _) | _ <;> rfl

/-! The 0xCB table: its rows have one cost (44_rotate_shift_bit.md R154). -/

theorem instrCost_ofRot (op : RotOp) (o : Loc) : instrCost cfg (.ofRot op o) taken = if o = .atHl then 16 else 8 := by
  rw [instrCost_default h]
  cases op <;> rcases o with (_ | _) | _ <;> rfl

/-- BIT b,(HL) writes nothing back. -/
theorem instrCost_ofBit (b : Fin 8) (o : Loc) : instrCost cfg (.ofBit b o) taken = if o = .atHl then 12 else 8 := by
  rw [instrCost_default h]
  fin_cases b <;> rcases o with (_ | _) | _ <;> rfl

theorem instrCost_ofRes (b : Fin 8) (o : Loc) : instrCost cfg (.ofRes b o) taken = if o = .atHl then 16 else 8 := by
  rw [instrCost_default h]
  fin_cases b <;> rcases o with (_ | _) | _ <;> rfl

theorem instrCost_ofSet (b : Fin 8) (o : Loc) : instrCost cfg (.ofSet b o) taken = if o = .atHl then 16 else 8 := by
  rw [instrCost_default h]
  fin_cases b <;> rcases o with (_ | _) | _ <;> rfl

theorem instrCost_ofRst (y : Fin 8) : instrCost cfg (.ofRst y) taken = 16 := by
  rw [instrCost_default h]
  cases taken <;> fin_cases y <;> rfl

end Costs

/-- Settles O60: the costs of the default table, family by family. -/
theorem cycleCosts : Obligations.CycleCosts := by
  intro cfg taken h
  have row := instrCost_default h taken
  refine ⟨fun i hi => ?_, instrCost_ofLdRegReg h taken, fun r n => ?_, fun n => ?_, fun i hi => ?_, fun nn => ?_,
    instrCost_ofAlu_reg h taken, fun op n => ⟨instrCost_ofAlu_atHl h taken op, instrCost_ofAlu_imm h taken op n⟩,
    fun r => ⟨instrCost_ofInc h taken (.reg r), instrCost_ofDec h taken (.reg r)⟩, instrCost_ofInc h taken .atHl,
    instrCost_ofDec h taken .atHl, fun p nn => ?_, fun p => ?_, fun cc nn => ?_, fun cc e => ?_, ?_, ?_,
    instrCost_ofRst h taken,
    fun op b r => ⟨instrCost_ofRot h taken op (.reg r), instrCost_ofBit h taken b (.reg r), instrCost_ofRes h taken b (.reg r),
      instrCost_ofSet h taken b (.reg r)⟩,
    fun op b => ⟨instrCost_ofRot h taken op .atHl, instrCost_ofBit h taken b .atHl, instrCost_ofRes h taken b .atHl,
      instrCost_ofSet h taken b .atHl⟩⟩
  all_goals simp only [row]
  · clear row
    revert i taken
    decide
  · cases taken <;> cases r <;> exact ⟨rfl, rfl, rfl⟩
  · cases taken <;> exact ⟨rfl, rfl, rfl, rfl, rfl, rfl, rfl⟩
  · clear row
    revert i taken
    decide
  · cases taken <;> exact ⟨rfl, rfl, rfl, rfl, rfl⟩
  · cases taken <;> cases p <;> exact ⟨rfl, rfl, rfl, rfl⟩
  · cases taken <;> cases p <;> exact ⟨rfl, rfl⟩
  · cases taken <;> cases cc <;> exact ⟨rfl, rfl⟩
  · cases taken <;> cases cc <;> exact ⟨rfl, rfl⟩
  · cases taken <;> rfl
  · cases taken <;> rfl

end Sys2Proof.Machine
end
